-- ==== Sys2Proof/Word.lean ====
section
/-!
DEFINITION. The word types of the core and the names its operands are chosen from.

Widths: 00_scope.md R9, 10_state.md R31. Operand codes: 30_encoding.md R125 to R128. Each operand type is a
closed list of names; the codes that select them are given once, in Decode.lean.
-/

namespace Sys2Proof

/-- An 8-bit value (R9). -/
abbrev Byte := BitVec 8

/-- A 16-bit value: a register pair, a memory address or a port address (R9). -/
abbrev Word := BitVec 16

/-- The 8-bit registers an opcode field can name (R126); code 6, `(HL)`, is not a register. -/
inductive Reg8 where
  | b | c | d | e | h | l | a
deriving DecidableEq, Repr

/-- The register pairs `rp` (R126). -/
inductive Pair where
  | bc | de | hl | sp
deriving DecidableEq, Repr

/-- The register pairs `rp2` of PUSH and POP (R126). -/
inductive StackPair where
  | bc | de | hl | af
deriving DecidableEq, Repr

/-- The index registers: IX for prefix 0xDD, IY for prefix 0xFD (R131). -/
inductive Index where
  | ix | iy
deriving DecidableEq, Repr

/-- The pairs of `ADD XY,rp`: `rp` with HL replaced by the index register (R353). -/
inductive IndexPair where
  | bc | de | xy | sp
deriving DecidableEq, Repr

/-- The sources of `LD XYH,r` and `LD XYL,r`: codes 4 and 5 are the halves of the index register (R209). -/
inductive IndexSrc where
  | b | c | d | e | xyh | xyl | a
deriving DecidableEq, Repr

/-- The conditions of JP, CALL and RET (R49, R127). -/
inductive Cond where
  | nz | z | nc | c | po | pe | p | m
deriving DecidableEq, Repr

/-- The four conditions of JR (R404). -/
inductive JrCond where
  | nz | z | nc | c
deriving DecidableEq, Repr

/-- The seven dispatch tables (R130). -/
inductive Table where
  | base | cb | ed | dd | fd | ddcb | fdcb
deriving DecidableEq, Repr

/-- The interrupt mode, one of 0, 1, 2 (R44). -/
inductive IntMode where
  | im0 | im1 | im2
deriving DecidableEq, Repr

end Sys2Proof
end

