-- ==== Sys2Proof/Machine/Bits.lean ====
section
/-!
DEFINITION. Bit fields, byte order and sign extension (00_scope.md R11) and the flag masks (10_state.md R37).
-/

namespace Sys2Proof

/-- `hi(w)`: bits 15 to 8 (R11). -/
def hi (w : Word) : Byte := w.extractLsb' 8 8

/-- `lo(w)`: bits 7 to 0 (R11). -/
def lo (w : Word) : Byte := w.extractLsb' 0 8

/-- The 16-bit value with high byte `h` and low byte `l` (R11; composition `word(h,l)` of R187). -/
def word (h l : Byte) : Word := h ++ l

/-- `sext_16(d)`: an 8-bit two's-complement value as a 16-bit one (R11). -/
def sext16 (d : Byte) : Word := d.signExtend 16

/-- The flag masks, by bit value (R37). -/
abbrev flagC : Byte := 0x01
/-- Subtract indicator N (R37). -/
abbrev flagN : Byte := 0x02
/-- Parity and overflow, one physical bit (R37, R38). -/
abbrev flagPV : Byte := 0x04
/-- Undocumented bit 3 (R37). -/
abbrev flagX3 : Byte := 0x08
/-- Half-carry (R37). -/
abbrev flagH : Byte := 0x10
/-- Undocumented bit 5 (R37). -/
abbrev flagX5 : Byte := 0x20
/-- Zero (R37). -/
abbrev flagZ : Byte := 0x40
/-- Sign (R37). -/
abbrev flagS : Byte := 0x80

/-- The mask where the condition holds, else no bit: the rules' `(m if c else 0)`. -/
def flagIf (c : Bool) (m : Byte) : Byte := if c then m else 0

/-- The byte whose bit `b` alone is 1: `1 << b` of R389 to R397. -/
def bitMask (b : BitVec 3) : Byte := (1 : Byte) <<< b.toNat

end Sys2Proof
end

