-- ==== Sys2Proof/Machine/Flags.lean ====
section
/-!
DEFINITION. The flag tables and the shared ALU functions (40_alu_flags.md R170 to R187, and the flag formulas
that the block, DAA and control rules write out).

Each 8-bit function returns the result and the complete new F. The tables are the spec's, bit for bit ("must be
reproduced exactly"); R175's closed forms are proved equal elsewhere, not used here.
-/

namespace Sys2Proof.Machine

/-! ## Tables -/

/-- `sz53[v]` (R170). -/
def sz53 (v : Byte) : Byte := (v &&& 0xA8) ||| flagIf (v == 0) flagZ

/-- Whether a byte has an even number of 1 bits. -/
def evenOnes (v : Byte) : Bool :=
  !(v.getLsbD 0 ^^ v.getLsbD 1 ^^ v.getLsbD 2 ^^ v.getLsbD 3
    ^^ v.getLsbD 4 ^^ v.getLsbD 5 ^^ v.getLsbD 6 ^^ v.getLsbD 7)

/-- `parity[v]` (R171). -/
def parity (v : Byte) : Byte := flagIf (evenOnes v) flagPV

/-- `sz53p[v]` (R172). -/
def sz53p (v : Byte) : Byte := sz53 v ||| parity v

/-- `lookup(a, b, r)` with the shifts of conflict C3 (R173). -/
def lookup (a b : Byte) (r : BitVec 9) : Byte :=
  ((a &&& 0x88) >>> 3) ||| ((b &&& 0x88) >>> 2) ||| ((r.setWidth 8 &&& 0x88) >>> 1)

/-- `lookup16(a, b, r)` (R173). -/
def lookup16 (a b : Word) (r : BitVec 17) : Word :=
  ((a &&& 0x8800) >>> 11) ||| ((b &&& 0x8800) >>> 10) ||| ((r.setWidth 16 &&& 0x8800) >>> 9)

/-- `halfCarryAdd` (R174). -/
def halfCarryAdd : List Byte := [0, flagH, flagH, flagH, 0, 0, 0, flagH]
/-- `halfCarrySub` (R174). -/
def halfCarrySub : List Byte := [0, 0, flagH, 0, flagH, 0, flagH, flagH]
/-- `overflowAdd` (R174). -/
def overflowAdd : List Byte := [0, 0, 0, flagPV, flagPV, 0, 0, 0]
/-- `overflowSub` (R174). -/
def overflowSub : List Byte := [0, flagPV, 0, 0, 0, 0, flagPV, 0]

/-- Reading an 8-entry table. -/
def entry (table : List Byte) (code : Nat) : Byte := table.getD code 0

/-! ## Eight-bit functions -/

/-- The untruncated sum `a + b + cin` (R176). -/
def sum9 (a b : Byte) (cin : Bool) : BitVec 9 := a.setWidth 9 + b.setWidth 9 + (BitVec.ofBool cin).setWidth 9

/-- The untruncated difference `(a - b - cin) mod 512` (R177). -/
def diff9 (a b : Byte) (cin : Bool) : BitVec 9 := a.setWidth 9 - b.setWidth 9 - (BitVec.ofBool cin).setWidth 9

/-- `ADD8(a, b, cin)` (R176). -/
def add8 (a b : Byte) (cin : Bool) : Byte × Byte :=
  let t := sum9 a b cin
  let res : Byte := t.setWidth 8
  let lk := lookup a b t
  (res, flagIf (t.getLsbD 8) flagC ||| entry halfCarryAdd (lk &&& 7).toNat
    ||| entry overflowAdd (lk >>> 4).toNat ||| sz53 res)

/-- `SUB8(a, b, cin)` (R177). -/
def sub8 (a b : Byte) (cin : Bool) : Byte × Byte :=
  let t := diff9 a b cin
  let res : Byte := t.setWidth 8
  let lk := lookup a b t
  (res, flagIf (t.getLsbD 8) flagC ||| flagN ||| entry halfCarrySub (lk &&& 7).toNat
    ||| entry overflowSub (lk >>> 4).toNat ||| sz53 res)

/-- `CP8(a, b)`: the flags of the subtraction, X5 and X3 from the operand (R178). -/
def cp8 (a b : Byte) : Byte := ((sub8 a b false).2 &&& ~~~(flagX5 ||| flagX3)) ||| (b &&& (flagX5 ||| flagX3))

/-- `AND8(a, b)` (R179). -/
def and8 (a b : Byte) : Byte × Byte := (a &&& b, flagH ||| sz53p (a &&& b))

/-- `XOR8(a, b)` (R180). -/
def xor8 (a b : Byte) : Byte × Byte := (a ^^^ b, sz53p (a ^^^ b))

/-- `OR8(a, b)` (R180). -/
def or8 (a b : Byte) : Byte × Byte := (a ||| b, sz53p (a ||| b))

/-- `INC8(v)` from the flags `f` (R181). -/
def inc8 (v f : Byte) : Byte × Byte :=
  let res := v + 1
  (res, (f &&& flagC) ||| flagIf (res == 0x80) flagPV ||| flagIf (res &&& 0x0F == 0) flagH ||| sz53 res)

/-- `DEC8(v)` from the flags `f` (R182). -/
def dec8 (v f : Byte) : Byte × Byte :=
  let res := v - 1
  (res, (f &&& flagC) ||| flagN ||| flagIf (v &&& 0x0F == 0) flagH ||| flagIf (res == 0x7F) flagPV ||| sz53 res)

/-! ## Rotates and shifts -/

/-- A rotate's result with its flags: `F <- C | sz53p[res]` (R183). -/
def rotated (res : Byte) (out : Bool) : Byte × Byte := (res, flagIf out flagC ||| sz53p res)

/-- `RLC8(v)` (R183); the carry argument is not used. -/
def rlc8 (v : Byte) (_ : Bool) : Byte × Byte := rotated ((v <<< 1) ||| (v >>> 7)) (v.getLsbD 7)

/-- `RRC8(v)` (R183); the carry argument is not used. -/
def rrc8 (v : Byte) (_ : Bool) : Byte × Byte := rotated ((v >>> 1) ||| (v <<< 7)) (v.getLsbD 0)

/-- `RL8(v)`: the old C enters bit 0 (R183). -/
def rl8 (v : Byte) (c : Bool) : Byte × Byte := rotated ((v <<< 1) ||| flagIf c 0x01) (v.getLsbD 7)

/-- `RR8(v)`: the old C enters bit 7 (R183). -/
def rr8 (v : Byte) (c : Bool) : Byte × Byte := rotated ((v >>> 1) ||| flagIf c 0x80) (v.getLsbD 0)

/-- `SLA8(v)` (R183); the carry argument is not used. -/
def sla8 (v : Byte) (_ : Bool) : Byte × Byte := rotated (v <<< 1) (v.getLsbD 7)

/-- `SRA8(v)`: bit 7 kept (R183); the carry argument is not used. -/
def sra8 (v : Byte) (_ : Bool) : Byte × Byte := rotated ((v &&& (0x80 : Byte)) ||| (v >>> 1)) (v.getLsbD 0)

/-- `SLL8(v)`: 1 enters bit 0 (R183); the carry argument is not used. -/
def sll8 (v : Byte) (_ : Bool) : Byte × Byte := rotated ((v <<< 1) ||| 1) (v.getLsbD 7)

/-- `SRL8(v)` (R183); the carry argument is not used. -/
def srl8 (v : Byte) (_ : Bool) : Byte × Byte := rotated (v >>> 1) (v.getLsbD 0)

/-- The accumulator rotates' flags: S, Z, PV kept, H and N 0, X5 and X3 from the new A (R370 to R373). -/
def accRotateFlags (res f : Byte) (out : Bool) : Byte :=
  (f &&& (flagS ||| flagZ ||| flagPV)) ||| (res &&& (flagX5 ||| flagX3)) ||| flagIf out flagC

/-- `BITF(b, v, x35)` from the flags `f` (R184). -/
def bitFlags (b : BitVec 3) (v x35 f : Byte) : Byte :=
  let one := v.getLsbD b.toNat
  (f &&& flagC) ||| flagH ||| (x35 &&& (flagX5 ||| flagX3)) ||| flagIf (!one) (flagZ ||| flagPV)
    ||| flagIf (b == 7 && one) flagS

/-! ## Sixteen-bit functions -/

/-- The untruncated sum `x + y + cin` (R185, R186). -/
def sum17 (x y : Word) (cin : Bool) : BitVec 17 := x.setWidth 17 + y.setWidth 17 + (BitVec.ofBool cin).setWidth 17

/-- The untruncated difference `(x - y - cin) mod 0x20000` (R186). -/
def diff17 (x y : Word) (cin : Bool) : BitVec 17 := x.setWidth 17 - y.setWidth 17 - (BitVec.ofBool cin).setWidth 17

/-- `ADD16(x, y)` from the flags `f` (R185). -/
def add16 (x y : Word) (f : Byte) : Word × Byte :=
  let t := sum17 x y false
  let res : Word := t.setWidth 16
  (res, (f &&& (flagS ||| flagZ ||| flagPV)) ||| flagIf (t.getLsbD 16) flagC
    ||| (hi res &&& (flagX5 ||| flagX3)) ||| entry halfCarryAdd (lookup16 x y t &&& 7).toNat)

/-- `ADC16(x, y)` with the carry `cin` (R186). -/
def adc16 (x y : Word) (cin : Bool) : Word × Byte :=
  let t := sum17 x y cin
  let res : Word := t.setWidth 16
  let lk := lookup16 x y t
  (res, flagIf (t.getLsbD 16) flagC ||| entry overflowAdd (lk >>> 4).toNat
    ||| (hi res &&& (flagS ||| flagX5 ||| flagX3)) ||| entry halfCarryAdd (lk &&& 7).toNat
    ||| flagIf (res == 0) flagZ)

/-- `SBC16(x, y)` with the borrow `cin` (R186). -/
def sbc16 (x y : Word) (cin : Bool) : Word × Byte :=
  let t := diff17 x y cin
  let res : Word := t.setWidth 16
  let lk := lookup16 x y t
  (res, flagIf (t.getLsbD 16) flagC ||| flagN ||| entry overflowSub (lk >>> 4).toNat
    ||| (hi res &&& (flagS ||| flagX5 ||| flagX3)) ||| entry halfCarrySub (lk &&& 7).toNat
    ||| flagIf (res == 0) flagZ)

/-! ## Adjust and control -/

/-- The correction DAA adds or subtracts, and its carry (R320). -/
def daaCorrection (a f : Byte) : Byte × Bool :=
  let low : Byte := if f.getLsbD 4 || decide (9 < (a &&& 0x0F).toNat) then 0x06 else 0
  if f.getLsbD 0 || decide (0x99 < a.toNat) then (low ||| 0x60, true) else (low, false)

/-- `DAA` on A and F (R320). -/
def daa8 (a f : Byte) : Byte × Byte :=
  let k := daaCorrection a f
  let p := if f.getLsbD 1 then sub8 a k.1 false else add8 a k.1 false
  (p.1, (p.2 &&& ~~~(flagC ||| flagPV)) ||| flagIf k.2 flagC ||| parity p.1)

/-- `CPL` on A and F (R321). -/
def cpl8 (a f : Byte) : Byte × Byte :=
  let res := a ^^^ 0xFF
  (res, (f &&& (flagS ||| flagZ ||| flagPV ||| flagC)) ||| flagH ||| flagN ||| (res &&& (flagX5 ||| flagX3)))

/-- The flags of `CCF` (R323). -/
def ccfFlags (a f : Byte) : Byte :=
  let c := f.getLsbD 0
  (f &&& (flagS ||| flagZ ||| flagPV)) ||| flagIf c flagH ||| flagIf (!c) flagC ||| (a &&& (flagX5 ||| flagX3))

/-- The flags of `SCF` (R324). -/
def scfFlags (a f : Byte) : Byte :=
  (f &&& (flagS ||| flagZ ||| flagPV)) ||| flagC ||| (a &&& (flagX5 ||| flagX3))

/-- The flags of `LD A,I` and `LD A,R`: PV is IFF2 (R330, R335). -/
def loadIRFlags (a f : Byte) (iff2 : Bool) : Byte := (f &&& flagC) ||| sz53 a ||| flagIf iff2 flagPV

/-- The flags of a port input and of RLD and RRD: C kept, the rest from the byte (R393, R394, R432, R433). -/
def inputFlags (v f : Byte) : Byte := (f &&& flagC) ||| sz53p v

/-! ## Block instructions -/

/-- The flags of LDI and LDD: the copied byte, A, and BC after the decrement (R265, R266). -/
def blockLoadFlags (a v f : Byte) (bc : Word) : Byte :=
  let n := a + v
  (f &&& (flagS ||| flagZ ||| flagC)) ||| flagIf (bc != 0) flagPV ||| flagIf (n.getLsbD 3) flagX3
    ||| flagIf (n.getLsbD 1) flagX5

/-- The flags of CPI and CPD: A, the compared byte, and BC after the decrement (R269, R270). -/
def blockCompareFlags (a v f : Byte) (bc : Word) : Byte :=
  let t := diff9 a v false
  let res : Byte := t.setWidth 8
  let hf := entry halfCarrySub (lookup a v t &&& 7).toNat
  let n := res - (if hf == 0 then 0 else 1)
  (f &&& flagC) ||| flagN ||| hf ||| flagIf (bc != 0) flagPV ||| flagIf (res == 0) flagZ ||| (res &&& flagS)
    ||| flagIf (n.getLsbD 3) flagX3 ||| flagIf (n.getLsbD 1) flagX5

/-- The flags of the block I/O instructions: the byte, the addend of `k`, and B after the decrement
(R436, R437, R440, R441). -/
def blockIoFlags (v addend b : Byte) : Byte :=
  let k := v.toNat + addend.toNat
  flagIf (v.getLsbD 7) flagN ||| flagIf (decide (255 < k)) (flagH ||| flagC)
    ||| parity ((BitVec.ofNat 8 k &&& 7) ^^^ b) ||| sz53 b

end Sys2Proof.Machine
end

