-- ==== Sys2Proof/Config.lean ====
section
/-!
DEFINITION. What an implementation or a launch fixes (00_scope.md R10) and the free values.

The parameters are plain data and stand in the machine's state (log entry 2), so that a statement about every
state is a statement about every choice of them. The free values have no body: nothing can evaluate them.
-/

namespace Sys2Proof

/-- `DDFD_UNASSIGNED`: what a DD or FD prefix before a byte its table leaves unassigned does (R471, D3). -/
inductive DdfdPolicy where
  | softNop | reexecute
deriving DecidableEq, Repr

/-- `UNDOC_ADMIT`: whether the undocumented encodings of R137 have their rule or are refused (D2). -/
inductive UndocPolicy where
  | admitted | refused
deriving DecidableEq, Repr

/-- A run of consecutive addresses, for `ROM_SET`: any set of addresses is a list of these. -/
structure Region where
  base : Nat
  size : Nat
deriving DecidableEq, Repr

/-- The model parameters of R10 that a run is launched with (R515). `MEM_INIT` is the memory itself, and the
named part of `PORT_IN` is the state's list of port answers. -/
structure Params where
  ddfdUnassigned   : DdfdPolicy
  undocAdmit       : UndocPolicy
  strictUnassigned : Bool
  eiDelay          : Bool
  memptrExact      : Bool
  romSet           : List Region
deriving DecidableEq, Repr

/-- The defaults that R10 gives in brackets. -/
def Params.default : Params :=
  { ddfdUnassigned := .softNop, undocAdmit := .admitted, strictUnassigned := false
    eiDelay := false, memptrExact := true, romSet := [] }

/-- FREE VALUE (log entry 3): the byte the oracle `PORT_IN` answers to a read of a port (R10, R101), where
the launch names no answer. The number tells draws apart: no two reads need agree. -/
opaque Config.portIn (draw : Nat) (port : Word) : Byte

/-- FREE VALUE (log entry 5): the byte whose bits 5 and 3 are F.X5 and F.X3 after `BIT b,(HL)` when
`MEMPTR_EXACT = false` (R189). -/
opaque Config.bitDraw (draw : Nat) : Byte

end Sys2Proof
end

