-- ==== Sys2Proof/Syntax.lean ====
section
/-!
DEFINITION. The instruction syntax: one constructor for each row of spec/opcode_table.json, in the table's order.

Each docstring names the row's instruction and its rule. The five constructors whose name begins `prefix` are the
table's router rows (R131): such an "instruction" is a lead-in byte alone, and its meaning is to fetch on and run
what it introduces (log entry 14). `unassignedED` and `unassignedXY` are the bytes with no assigned behaviour
(R136, R470, R471).
-/

namespace Sys2Proof

/-- The instructions of the seven dispatch tables (R130), with their operands. -/
inductive Instr where
  -- BASE table (R139)
  /-- `NOP` (BASE 00000000), R325. -/
  | nop
  /-- `LD rp,nn` (BASE 00pp0001), R230. -/
  | ldRpNn (p : Pair) (nn : Word)
  /-- `LD (BC),A` (BASE 00000010), R211. -/
  | ldIndBcA
  /-- `LD (DE),A` (BASE 00010010), R211. -/
  | ldIndDeA
  /-- `LD A,(BC)` (BASE 00001010), R210. -/
  | ldAIndBc
  /-- `LD A,(DE)` (BASE 00011010), R210. -/
  | ldAIndDe
  /-- `INC rp` (BASE 00pp0011), R355. -/
  | incRp (p : Pair)
  /-- `DEC rp` (BASE 00pp1011), R356. -/
  | decRp (p : Pair)
  /-- `INC r` (BASE 00rrr100), R300. -/
  | incR (r : Reg8)
  /-- `INC (HL)` (BASE 00110100), R301. -/
  | incIndHl
  /-- `DEC r` (BASE 00rrr101), R303. -/
  | decR (r : Reg8)
  /-- `DEC (HL)` (BASE 00110101), R304. -/
  | decIndHl
  /-- `LD r,n` (BASE 00rrr110), R201. -/
  | ldRN (r : Reg8) (n : Byte)
  /-- `LD (HL),n` (BASE 00110110), R205. -/
  | ldIndHlN (n : Byte)
  /-- `RLCA` (BASE 00000111), R370. -/
  | rlca
  /-- `RRCA` (BASE 00001111), R371. -/
  | rrca
  /-- `RLA` (BASE 00010111), R372. -/
  | rla
  /-- `RRA` (BASE 00011111), R373. -/
  | rra
  /-- `EX AF,AF'` (BASE 00001000), R260. -/
  | exAfAf
  /-- `ADD HL,rp` (BASE 00pp1001), R350. -/
  | addHlRp (p : Pair)
  /-- `DJNZ e` (BASE 00010000), R405. -/
  | djnz (e : Byte)
  /-- `JR e` (BASE 00011000), R403. -/
  | jr (e : Byte)
  /-- `JR cc,e` (BASE 001cc000), R404. -/
  | jrCc (cc : JrCond) (e : Byte)
  /-- `LD (nn),HL` (BASE 00100010), R233. -/
  | ldIndNnHl (nn : Word)
  /-- `LD HL,(nn)` (BASE 00101010), R232. -/
  | ldHlIndNn (nn : Word)
  /-- `LD (nn),A` (BASE 00110010), R213. -/
  | ldIndNnA (nn : Word)
  /-- `LD A,(nn)` (BASE 00111010), R212. -/
  | ldAIndNn (nn : Word)
  /-- `DAA` (BASE 00100111), R320. -/
  | daa
  /-- `CPL` (BASE 00101111), R321. -/
  | cpl
  /-- `SCF` (BASE 00110111), R324. -/
  | scf
  /-- `CCF` (BASE 00111111), R323. -/
  | ccf
  /-- `LD r,r'` (BASE 01dddsss), R200. -/
  | ldRR (dst : Reg8) (src : Reg8)
  /-- `LD r,(HL)` (BASE 01ddd110), R202. -/
  | ldRIndHl (r : Reg8)
  /-- `LD (HL),r` (BASE 01110sss), R204. -/
  | ldIndHlR (r : Reg8)
  /-- `HALT` (BASE 01110110), R326. -/
  | halt
  /-- `ADD A,r` (BASE 10000sss), R290. -/
  | addAR (r : Reg8)
  /-- `ADD A,(HL)` (BASE 10000110), R290. -/
  | addAIndHl
  /-- `ADC A,r` (BASE 10001sss), R291. -/
  | adcAR (r : Reg8)
  /-- `ADC A,(HL)` (BASE 10001110), R291. -/
  | adcAIndHl
  /-- `SUB r` (BASE 10010sss), R292. -/
  | subR (r : Reg8)
  /-- `SUB (HL)` (BASE 10010110), R292. -/
  | subIndHl
  /-- `SBC A,r` (BASE 10011sss), R293. -/
  | sbcAR (r : Reg8)
  /-- `SBC A,(HL)` (BASE 10011110), R293. -/
  | sbcAIndHl
  /-- `AND r` (BASE 10100sss), R294. -/
  | andR (r : Reg8)
  /-- `AND (HL)` (BASE 10100110), R294. -/
  | andIndHl
  /-- `XOR r` (BASE 10101sss), R295. -/
  | xorR (r : Reg8)
  /-- `XOR (HL)` (BASE 10101110), R295. -/
  | xorIndHl
  /-- `OR r` (BASE 10110sss), R296. -/
  | orR (r : Reg8)
  /-- `OR (HL)` (BASE 10110110), R296. -/
  | orIndHl
  /-- `CP r` (BASE 10111sss), R297. -/
  | cpR (r : Reg8)
  /-- `CP (HL)` (BASE 10111110), R297. -/
  | cpIndHl
  /-- `ADD A,n` (BASE 11000110), R290. -/
  | addAN (n : Byte)
  /-- `ADC A,n` (BASE 11001110), R291. -/
  | adcAN (n : Byte)
  /-- `SUB n` (BASE 11010110), R292. -/
  | subN (n : Byte)
  /-- `SBC A,n` (BASE 11011110), R293. -/
  | sbcAN (n : Byte)
  /-- `AND n` (BASE 11100110), R294. -/
  | andN (n : Byte)
  /-- `XOR n` (BASE 11101110), R295. -/
  | xorN (n : Byte)
  /-- `OR n` (BASE 11110110), R296. -/
  | orN (n : Byte)
  /-- `CP n` (BASE 11111110), R297. -/
  | cpN (n : Byte)
  /-- `RET cc` (BASE 11ccc000), R412. -/
  | retCc (cc : Cond)
  /-- `POP rp2` (BASE 11pp0001), R241. -/
  | popRp2 (p : StackPair)
  /-- `JP cc,nn` (BASE 11ccc010), R401. -/
  | jpCcNn (cc : Cond) (nn : Word)
  /-- `JP nn` (BASE 11000011), R400. -/
  | jpNn (nn : Word)
  /-- `CALL cc,nn` (BASE 11ccc100), R409. -/
  | callCcNn (cc : Cond) (nn : Word)
  /-- `PUSH rp2` (BASE 11pp0101), R240. -/
  | pushRp2 (p : StackPair)
  /-- `RST t` (BASE 11ttt111), R416. -/
  | rst (t : BitVec 3)
  /-- `RET` (BASE 11001001), R411. -/
  | ret
  /-- `prefix CB` (BASE 11001011), R131. -/
  | prefixCB
  /-- `CALL nn` (BASE 11001101), R408. -/
  | callNn (nn : Word)
  /-- `OUT (n),A` (BASE 11010011), R431. -/
  | outIndNA (n : Byte)
  /-- `IN A,(n)` (BASE 11011011), R430. -/
  | inAIndN (n : Byte)
  /-- `EXX` (BASE 11011001), R261. -/
  | exx
  /-- `prefix DD` (BASE 11011101), R131. -/
  | prefixDD
  /-- `prefix FD` (BASE 11111101), R131. -/
  | prefixFD
  /-- `EX (SP),HL` (BASE 11100011), R263. -/
  | exIndSpHl
  /-- `JP (HL)` (BASE 11101001), R402. -/
  | jpIndHl
  /-- `EX DE,HL` (BASE 11101011), R262. -/
  | exDeHl
  /-- `prefix ED` (BASE 11101101), R131. -/
  | prefixED
  /-- `DI` (BASE 11110011), R327. -/
  | di
  /-- `EI` (BASE 11111011), R328. -/
  | ei
  /-- `LD SP,HL` (BASE 11111001), R236. -/
  | ldSpHl
  -- CB table (R141)
  /-- `RLC r` (CB 00000sss), R375. -/
  | rlcR (r : Reg8)
  /-- `RLC (HL)` (CB 00000110), R375. -/
  | rlcIndHl
  /-- `RRC r` (CB 00001sss), R376. -/
  | rrcR (r : Reg8)
  /-- `RRC (HL)` (CB 00001110), R376. -/
  | rrcIndHl
  /-- `RL r` (CB 00010sss), R377. -/
  | rlR (r : Reg8)
  /-- `RL (HL)` (CB 00010110), R377. -/
  | rlIndHl
  /-- `RR r` (CB 00011sss), R378. -/
  | rrR (r : Reg8)
  /-- `RR (HL)` (CB 00011110), R378. -/
  | rrIndHl
  /-- `SLA r` (CB 00100sss), R379. -/
  | slaR (r : Reg8)
  /-- `SLA (HL)` (CB 00100110), R379. -/
  | slaIndHl
  /-- `SRA r` (CB 00101sss), R380. -/
  | sraR (r : Reg8)
  /-- `SRA (HL)` (CB 00101110), R380. -/
  | sraIndHl
  /-- `SLL r` (CB 00110sss, undocumented), R381. -/
  | sllR (r : Reg8)
  /-- `SLL (HL)` (CB 00110110, undocumented), R381. -/
  | sllIndHl
  /-- `SRL r` (CB 00111sss), R382. -/
  | srlR (r : Reg8)
  /-- `SRL (HL)` (CB 00111110), R382. -/
  | srlIndHl
  /-- `BIT b,r` (CB 01bbbsss), R387. -/
  | bitR (b : BitVec 3) (r : Reg8)
  /-- `BIT b,(HL)` (CB 01bbb110), R388. -/
  | bitIndHl (b : BitVec 3)
  /-- `RES b,r` (CB 10bbbsss), R389. -/
  | resR (b : BitVec 3) (r : Reg8)
  /-- `RES b,(HL)` (CB 10bbb110), R390. -/
  | resIndHl (b : BitVec 3)
  /-- `SET b,r` (CB 11bbbsss), R391. -/
  | setR (b : BitVec 3) (r : Reg8)
  /-- `SET b,(HL)` (CB 11bbb110), R392. -/
  | setIndHl (b : BitVec 3)
  -- ED table (R142)
  /-- `IN r,(C)` (ED 01rrr000), R432. -/
  | inRIndC (r : Reg8)
  /-- `IN F,(C)` (ED 01110000, undocumented), R433. -/
  | inFIndC
  /-- `OUT (C),r` (ED 01rrr001), R434. -/
  | outIndCR (r : Reg8)
  /-- `OUT (C),0` (ED 01110001, undocumented), R435. -/
  | outIndC0
  /-- `SBC HL,rp` (ED 01pp0010), R352. -/
  | sbcHlRp (p : Pair)
  /-- `ADC HL,rp` (ED 01pp1010), R351. -/
  | adcHlRp (p : Pair)
  /-- `LD (nn),rp` (ED 01pp0011), R235. -/
  | ldIndNnRp (nn : Word) (p : Pair)
  /-- `LD rp,(nn)` (ED 01pp1011), R234. -/
  | ldRpIndNn (p : Pair) (nn : Word)
  /-- `NEG` (ED 01000100), R322. -/
  | neg
  /-- `NEG (alias)` (ED 01yyy100, undocumented), R322. -/
  | negAlias (y : BitVec 3)
  /-- `RETN` (ED 01000101), R414. -/
  | retn
  /-- `RETI` (ED 01001101), R413. -/
  | reti
  /-- `RETN (alias)` (ED 01yyy101, undocumented), R414. -/
  | retnAlias (y : BitVec 3)
  /-- `IM 0` (ED 01000110), R332. -/
  | im0
  /-- `IM 0 (alias)` (ED 01yyy110, undocumented), R332. -/
  | im0Alias (y : BitVec 3)
  /-- `IM 1` (ED 01010110), R333. -/
  | im1
  /-- `IM 1 (alias)` (ED 01110110, undocumented), R333. -/
  | im1Alias
  /-- `IM 2` (ED 01011110), R334. -/
  | im2
  /-- `IM 2 (alias)` (ED 01111110, undocumented), R334. -/
  | im2Alias
  /-- `LD I,A` (ED 01000111), R329. -/
  | ldIA
  /-- `LD R,A` (ED 01001111), R331. -/
  | ldRA
  /-- `LD A,I` (ED 01010111), R330. -/
  | ldAI
  /-- `LD A,R` (ED 01011111), R335. -/
  | ldAR
  /-- `RRD` (ED 01100111), R394. -/
  | rrd
  /-- `RLD` (ED 01101111), R393. -/
  | rld
  /-- `LDI` (ED 10100000), R265. -/
  | ldi
  /-- `CPI` (ED 10100001), R269. -/
  | cpi
  /-- `INI` (ED 10100010), R436. -/
  | ini
  /-- `OUTI` (ED 10100011), R440. -/
  | outi
  /-- `LDD` (ED 10101000), R266. -/
  | ldd
  /-- `CPD` (ED 10101001), R270. -/
  | cpd
  /-- `IND` (ED 10101010), R437. -/
  | ind
  /-- `OUTD` (ED 10101011), R441. -/
  | outd
  /-- `LDIR` (ED 10110000), R267. -/
  | ldir
  /-- `CPIR` (ED 10110001), R271. -/
  | cpir
  /-- `INIR` (ED 10110010), R438. -/
  | inir
  /-- `OTIR` (ED 10110011), R442. -/
  | otir
  /-- `LDDR` (ED 10111000), R268. -/
  | lddr
  /-- `CPDR` (ED 10111001), R272. -/
  | cpdr
  /-- `INDR` (ED 10111010), R439. -/
  | indr
  /-- `OTDR` (ED 10111011), R443. -/
  | otdr
  -- DD and FD tables (R145)
  /-- `ADD XY,rp` (DD/FD 00pp1001), R353. -/
  | addXYRp (x : Index) (p : IndexPair)
  /-- `LD XY,nn` (DD/FD 00100001), R231. -/
  | ldXYNn (x : Index) (nn : Word)
  /-- `LD (nn),XY` (DD/FD 00100010), R238. -/
  | ldIndNnXY (nn : Word) (x : Index)
  /-- `LD XY,(nn)` (DD/FD 00101010), R237. -/
  | ldXYIndNn (x : Index) (nn : Word)
  /-- `INC XY` (DD/FD 00100011), R357. -/
  | incXY (x : Index)
  /-- `DEC XY` (DD/FD 00101011), R358. -/
  | decXY (x : Index)
  /-- `INC XYH` (DD/FD 00100100, undocumented), R302. -/
  | incXYH (x : Index)
  /-- `INC XYL` (DD/FD 00101100, undocumented), R302. -/
  | incXYL (x : Index)
  /-- `DEC XYH` (DD/FD 00100101, undocumented), R305. -/
  | decXYH (x : Index)
  /-- `DEC XYL` (DD/FD 00101101, undocumented), R305. -/
  | decXYL (x : Index)
  /-- `LD XYH,n` (DD/FD 00100110, undocumented), R207. -/
  | ldXYHN (x : Index) (n : Byte)
  /-- `LD XYL,n` (DD/FD 00101110, undocumented), R207. -/
  | ldXYLN (x : Index) (n : Byte)
  /-- `INC (XY+d)` (DD/FD 00110100), R306. -/
  | incIndXY (x : Index) (d : Byte)
  /-- `DEC (XY+d)` (DD/FD 00110101), R307. -/
  | decIndXY (x : Index) (d : Byte)
  /-- `LD (XY+d),n` (DD/FD 00110110), R206. -/
  | ldIndXYN (x : Index) (d : Byte) (n : Byte)
  /-- `LD r,XYH` (DD/FD 01rrr100, undocumented), R208. -/
  | ldRXYH (r : Reg8) (x : Index)
  /-- `LD r,XYL` (DD/FD 01rrr101, undocumented), R208. -/
  | ldRXYL (r : Reg8) (x : Index)
  /-- `LD XYH,r` (DD/FD 01100sss, undocumented), R209. -/
  | ldXYHR (x : Index) (src : IndexSrc)
  /-- `LD XYL,r` (DD/FD 01101sss, undocumented), R209. -/
  | ldXYLR (x : Index) (src : IndexSrc)
  /-- `LD r,(XY+d)` (DD/FD 01rrr110), R203. -/
  | ldRIndXY (r : Reg8) (x : Index) (d : Byte)
  /-- `LD (XY+d),r` (DD/FD 01110sss), R214. -/
  | ldIndXYR (x : Index) (d : Byte) (r : Reg8)
  /-- `LD (XY+d),H` (DD/FD 01110100), R214. -/
  | ldIndXYRegH (x : Index) (d : Byte)
  /-- `LD (XY+d),L` (DD/FD 01110101), R214. -/
  | ldIndXYRegL (x : Index) (d : Byte)
  /-- `ADD A,XYH` (DD/FD 10000100, undocumented), R290. -/
  | addAXYH (x : Index)
  /-- `ADD A,XYL` (DD/FD 10000101, undocumented), R290. -/
  | addAXYL (x : Index)
  /-- `ADD A,(XY+d)` (DD/FD 10000110), R290. -/
  | addAIndXY (x : Index) (d : Byte)
  /-- `ADC A,XYH` (DD/FD 10001100, undocumented), R291. -/
  | adcAXYH (x : Index)
  /-- `ADC A,XYL` (DD/FD 10001101, undocumented), R291. -/
  | adcAXYL (x : Index)
  /-- `ADC A,(XY+d)` (DD/FD 10001110), R291. -/
  | adcAIndXY (x : Index) (d : Byte)
  /-- `SUB XYH` (DD/FD 10010100, undocumented), R292. -/
  | subXYH (x : Index)
  /-- `SUB XYL` (DD/FD 10010101, undocumented), R292. -/
  | subXYL (x : Index)
  /-- `SUB (XY+d)` (DD/FD 10010110), R292. -/
  | subIndXY (x : Index) (d : Byte)
  /-- `SBC A,XYH` (DD/FD 10011100, undocumented), R293. -/
  | sbcAXYH (x : Index)
  /-- `SBC A,XYL` (DD/FD 10011101, undocumented), R293. -/
  | sbcAXYL (x : Index)
  /-- `SBC A,(XY+d)` (DD/FD 10011110), R293. -/
  | sbcAIndXY (x : Index) (d : Byte)
  /-- `AND XYH` (DD/FD 10100100, undocumented), R294. -/
  | andXYH (x : Index)
  /-- `AND XYL` (DD/FD 10100101, undocumented), R294. -/
  | andXYL (x : Index)
  /-- `AND (XY+d)` (DD/FD 10100110), R294. -/
  | andIndXY (x : Index) (d : Byte)
  /-- `XOR XYH` (DD/FD 10101100, undocumented), R295. -/
  | xorXYH (x : Index)
  /-- `XOR XYL` (DD/FD 10101101, undocumented), R295. -/
  | xorXYL (x : Index)
  /-- `XOR (XY+d)` (DD/FD 10101110), R295. -/
  | xorIndXY (x : Index) (d : Byte)
  /-- `OR XYH` (DD/FD 10110100, undocumented), R296. -/
  | orXYH (x : Index)
  /-- `OR XYL` (DD/FD 10110101, undocumented), R296. -/
  | orXYL (x : Index)
  /-- `OR (XY+d)` (DD/FD 10110110), R296. -/
  | orIndXY (x : Index) (d : Byte)
  /-- `CP XYH` (DD/FD 10111100, undocumented), R297. -/
  | cpXYH (x : Index)
  /-- `CP XYL` (DD/FD 10111101, undocumented), R297. -/
  | cpXYL (x : Index)
  /-- `CP (XY+d)` (DD/FD 10111110), R297. -/
  | cpIndXY (x : Index) (d : Byte)
  /-- `POP XY` (DD/FD 11100001), R243. -/
  | popXY (x : Index)
  /-- `PUSH XY` (DD/FD 11100101), R242. -/
  | pushXY (x : Index)
  /-- `EX (SP),XY` (DD/FD 11100011), R273. -/
  | exIndSpXY (x : Index)
  /-- `JP (XY)` (DD/FD 11101001), R406. -/
  | jpIndXY (x : Index)
  /-- `LD SP,XY` (DD/FD 11111001), R239. -/
  | ldSpXY (x : Index)
  /-- `prefix DDCB/FDCB` (DD/FD 11001011), R131. -/
  | prefixXYCB (x : Index)
  -- DDCB and FDCB tables (R146)
  /-- `RLC (XY+d)` (DDCB/FDCB 00000110), R375. -/
  | rlcIndXY (x : Index) (d : Byte)
  /-- `RLC (XY+d),r` (DDCB/FDCB 00000sss, undocumented), R375. -/
  | rlcIndXYR (x : Index) (d : Byte) (r : Reg8)
  /-- `RRC (XY+d)` (DDCB/FDCB 00001110), R376. -/
  | rrcIndXY (x : Index) (d : Byte)
  /-- `RRC (XY+d),r` (DDCB/FDCB 00001sss, undocumented), R376. -/
  | rrcIndXYR (x : Index) (d : Byte) (r : Reg8)
  /-- `RL (XY+d)` (DDCB/FDCB 00010110), R377. -/
  | rlIndXY (x : Index) (d : Byte)
  /-- `RL (XY+d),r` (DDCB/FDCB 00010sss, undocumented), R377. -/
  | rlIndXYR (x : Index) (d : Byte) (r : Reg8)
  /-- `RR (XY+d)` (DDCB/FDCB 00011110), R378. -/
  | rrIndXY (x : Index) (d : Byte)
  /-- `RR (XY+d),r` (DDCB/FDCB 00011sss, undocumented), R378. -/
  | rrIndXYR (x : Index) (d : Byte) (r : Reg8)
  /-- `SLA (XY+d)` (DDCB/FDCB 00100110), R379. -/
  | slaIndXY (x : Index) (d : Byte)
  /-- `SLA (XY+d),r` (DDCB/FDCB 00100sss, undocumented), R379. -/
  | slaIndXYR (x : Index) (d : Byte) (r : Reg8)
  /-- `SRA (XY+d)` (DDCB/FDCB 00101110), R380. -/
  | sraIndXY (x : Index) (d : Byte)
  /-- `SRA (XY+d),r` (DDCB/FDCB 00101sss, undocumented), R380. -/
  | sraIndXYR (x : Index) (d : Byte) (r : Reg8)
  /-- `SLL (XY+d)` (DDCB/FDCB 00110110, undocumented), R381. -/
  | sllIndXY (x : Index) (d : Byte)
  /-- `SLL (XY+d),r` (DDCB/FDCB 00110sss, undocumented), R381. -/
  | sllIndXYR (x : Index) (d : Byte) (r : Reg8)
  /-- `SRL (XY+d)` (DDCB/FDCB 00111110), R382. -/
  | srlIndXY (x : Index) (d : Byte)
  /-- `SRL (XY+d),r` (DDCB/FDCB 00111sss, undocumented), R382. -/
  | srlIndXYR (x : Index) (d : Byte) (r : Reg8)
  /-- `BIT b,(XY+d)` (DDCB/FDCB 01bbb110), R395. -/
  | bitIndXY (b : BitVec 3) (x : Index) (d : Byte)
  /-- `BIT b,(XY+d) (alias)` (DDCB/FDCB 01bbbsss, undocumented), R395. -/
  | bitIndXYAlias (b : BitVec 3) (x : Index) (d : Byte) (r : Reg8)
  /-- `RES b,(XY+d)` (DDCB/FDCB 10bbb110), R396. -/
  | resIndXY (b : BitVec 3) (x : Index) (d : Byte)
  /-- `RES b,(XY+d),r` (DDCB/FDCB 10bbbsss, undocumented), R396. -/
  | resIndXYR (b : BitVec 3) (x : Index) (d : Byte) (r : Reg8)
  /-- `SET b,(XY+d)` (DDCB/FDCB 11bbb110), R397. -/
  | setIndXY (b : BitVec 3) (x : Index) (d : Byte)
  /-- `SET b,(XY+d),r` (DDCB/FDCB 11bbbsss, undocumented), R397. -/
  | setIndXYR (b : BitVec 3) (x : Index) (d : Byte) (r : Reg8)
  /-- `UNASSIGNED (soft no-op)` (ED xxxxxxxx), R470. -/
  | unassignedED (b : Byte)
  -- DD and FD tables (R145)
  /-- `UNASSIGNED (DDFD_UNASSIGNED policy)` (DD/FD xxxxxxxx), R471. -/
  | unassignedXY (x : Index) (b : Byte)
deriving DecidableEq, Repr

end Sys2Proof
end

