-- ==== Sys2Proof/Machine/State.lean ====
section
/-!
DEFINITION. The machine's state as plain data, the reasons a step can stop, and the state after reset.

The register file is 10_state.md R30 to R51. Memory, the event trace, the parameters and the host's schedule are
what 20_memory.md R101 and 70_reset_and_hazards.md R515 name a launch by.
-/

namespace Sys2Proof.Machine

/-- The register file (R30): pairs are stored whole, 8-bit registers are views of them (R32). -/
structure RegFile where
  af : Word
  bc : Word
  de : Word
  hl : Word
  /-- The shadow AF' (R33). -/
  afAlt : Word
  /-- The shadow BC' (R33). -/
  bcAlt : Word
  /-- The shadow DE' (R33). -/
  deAlt : Word
  /-- The shadow HL' (R33). -/
  hlAlt : Word
  ix : Word
  iy : Word
  sp : Word
  pc : Word
  /-- The internal address latch (R41). -/
  memptr : Word
  /-- The interrupt vector page register I (R42). -/
  i : Byte
  /-- The 7-bit refresh counter R (R43). -/
  r : BitVec 7
  /-- The separate bit 7 of R (R43). -/
  r7 : Bool
  iff1 : Bool
  iff2 : Bool
  /-- The interrupt mode (R44). -/
  im : IntMode
  halted : Bool
deriving DecidableEq, Repr

/-- The power-on register file: all fields zero (R50, R500). -/
def RegFile.zero : RegFile :=
  { af := 0, bc := 0, de := 0, hl := 0, afAlt := 0, bcAlt := 0, deAlt := 0, hlAlt := 0
    ix := 0, iy := 0, sp := 0, pc := 0, memptr := 0, i := 0, r := 0, r7 := false
    iff1 := false, iff2 := false, im := .im0, halted := false }

/-- Memory: the bytes that differ from what an unlisted address reads as, addresses rising (R80, R101). -/
abbrev Memory := List Host.Cell

/-- One event of the trace (R101): a charge, a bus call with the byte that passed, or the diagnostic of R470. -/
inductive Event where
  | tick (units : Nat)
  | memRead (address : Word) (value : Byte)
  | memWrite (address : Word) (value : Byte)
  | portRead (port : Word) (value : Byte)
  | portWrite (port : Word) (value : Byte)
  | unassigned (table : Table) (byte : Byte) (address : Word)
deriving DecidableEq, Repr

/-- The register-file fields and 8-bit views the host can write (R47). -/
inductive HostField where
  | af | bc | de | hl | afAlt | bcAlt | deAlt | hlAlt | ix | iy | sp | pc | memptr
  | a | f | b | c | d | e | h | l | ixh | ixl | iyh | iyl
  | i | r | r7 | iff1 | iff2 | im | halted
deriving DecidableEq, Repr

/-- One call by the host between steps (R8, R47, R460, R500, R513). -/
inductive HostCall where
  /-- `step()`. -/
  | step
  /-- `requestMaskableInterrupt()`. -/
  | requestMaskable
  /-- `requestNonMaskableInterrupt()`. -/
  | requestNonMaskable
  /-- `reset()`. -/
  | reset
  /-- A direct write of a register-file field. -/
  | writeField (field : HostField) (value : Nat)
  /-- The host changing a byte of its own memory (R326: it "may write memory between steps"). -/
  | pokeMemory (address : Word) (value : Byte)
deriving DecidableEq, Repr

/-- Everything the machine holds. -/
structure State where
  /-- The register file (R30). -/
  regs : RegFile
  /-- The acceptance-delay bit of `EI_DELAY = true` (R461). -/
  eiLast : Bool
  /-- The host's memory (R101). -/
  mem : Memory
  /-- The event trace, newest event first (R101). -/
  trace : List Event
  /-- The parameters the run was launched with (R10, R515); no step changes them. -/
  params : Params
  /-- The host's coming calls, the next one first; when there is none the host calls `step()` (R514). -/
  schedule : List HostCall
  /-- The bytes the host answers the coming port reads with, the next one first (R101). -/
  portQueue : List Byte
  /-- The model's own counter of free values drawn (log entry 4). -/
  draws : Nat
deriving DecidableEq, Repr

/-- Why the machine stops with a fault. -/
inductive Fault where
  /-- Raised by the two unassigned rows when `STRICT_UNASSIGNED = true` (R470): the table, the byte and its
  address. It is the spec's own fault, so it is safe. -/
  | unassigned (table : Table) (byte : Byte) (address : Word)
  /-- Raised by the router when `DDFD_UNASSIGNED = Reexecute` and every byte of memory is a discarded lead-in
  (R471): the step of the spec would never end. Safe: the machine stops where the hardware never completes. -/
  | endlessLeadIns
deriving DecidableEq, Repr

/-- Why the machine gives an action no meaning. -/
inductive Refusal where
  /-- Raised by `exec` alone, for an instruction that has no meaning yet; none is left. Safe. -/
  | notModelled (mnemonic : String)
  /-- Raised by every undocumented encoding when `UNDOC_ADMIT = Refuse` (R137). The spec's own refusal: safe. -/
  | undocumented
  /-- Raised by a host write of a value outside its field's type (R44, R47, D26). The spec's own refusal: safe. -/
  | hostWrite (field : HostField) (value : Nat)
deriving DecidableEq, Repr

/-- What an instruction or a step answers. -/
abbrev Result := Host.Outcome State Fault Refusal

/-- The machine right after reset (R50, R500, R501): the register file all zero, an empty trace (R515), the
default parameters (R10), no byte of memory listed (log entry 1), nothing scheduled and nothing queued by the
host (log entries 3, 4 and 6). -/
def State.reset : State :=
  { regs := RegFile.zero, eiLast := false, mem := [], trace := [], params := Params.default
    schedule := [], portQueue := [], draws := 0 }

end Sys2Proof.Machine
end

