-- ==== Sys2Proof/Machine/Ops.lean ====
section
/-!
DEFINITION. The named operations over memory, the bus and the register file, the stack primitives, interrupt
delivery and the return from it.

A bus access is an effect on the trace (`busRead`, `busWrite`, `portIn`, `portOut`) and, for a read, a value
(`byteAt`, `portByte`). Every read or write an instruction makes goes through these.
-/

namespace Sys2Proof.Machine

/-! ## Memory -/

/-- What an unlisted address reads as (log entry 1). -/
def unlistedByte : Byte := 0x00

/-- The byte at an address. The list is sorted, so a later address ends the search. -/
def Memory.read : Memory → Nat → Byte
  | [], _ => unlistedByte
  | (b, w) :: m, a => if a < b then unlistedByte else if a = b then w else Memory.read m a

/-- Storing a byte: the entry is placed in address order, and dropped where the byte is what an unlisted address
reads as. -/
def Memory.write : Memory → Nat → Byte → Memory
  | [], a, v => if v = unlistedByte then [] else [(a, v)]
  | (b, w) :: m, a, v =>
    if a < b then if v = unlistedByte then (b, w) :: m else (a, v) :: (b, w) :: m
    else if a = b then if v = unlistedByte then m else (a, v) :: m
    else (b, w) :: Memory.write m a v

/-- Every address of the list is at least `n` and below 65,536, addresses rise, and no byte is the unlisted one. -/
def Memory.wfFrom : Nat → Memory → Bool
  | _, [] => true
  | n, (b, w) :: m => n ≤ b && b < 65536 && w != unlistedByte && Memory.wfFrom (b + 1) m

/-- The canonical form of a memory. -/
def Memory.wf (m : Memory) : Bool := Memory.wfFrom 0 m

/-! ## The bus -/

/-- Whether an address lies in a region. -/
def inRegion (a : Nat) (r : Region) : Bool := r.base ≤ a && a < r.base + r.size

/-- Whether the host ignores writes to an address (R101, `ROM_SET`). -/
def State.inRom (s : State) (a : Word) : Bool := s.params.romSet.any (inRegion a.toNat)

/-- An event added to the trace (R101). -/
def State.log (s : State) (e : Event) : State := { s with trace := e :: s.trace }

/-- `Tick(n)` (R13); a charge of 0 is no event (R84). -/
def State.tick (s : State) (n : Nat) : State := if n = 0 then s else s.log (.tick n)

/-- The byte a memory read returns (R13, R101). -/
def State.byteAt (s : State) (a : Word) : Byte := s.mem.read a.toNat

/-- The effect of `MemRead(a,1)`: 3 units, then the access (R84). Memory reads have no side effect (R90). -/
def State.busRead (s : State) (a : Word) : State := (s.tick 3).log (.memRead a (s.byteAt a))

/-- The host's memory after a write: unchanged where the host ignores it (R101). -/
def State.stored (s : State) (a : Word) (v : Byte) : Memory :=
  if s.inRom a then s.mem else s.mem.write a.toNat v

/-- `MemWrite(a,1,v)`: 3 units, then the access, recorded even where it has no effect (R84, R101). -/
def State.busWrite (s : State) (a : Word) (v : Byte) : State :=
  { (s.tick 3).log (.memWrite a v) with mem := s.stored a v }

/-- The byte a port read returns: the host's next answer, else a draw from `PORT_IN` (R101, log entry 3). -/
def State.portByte (s : State) (port : Word) : Byte :=
  match s.portQueue with
  | v :: _ => v
  | [] => Config.portIn s.draws port

/-- The effect of `PortRead(port)`: 1 unit, the access, 3 units (R84). -/
def State.portIn (s : State) (port : Word) : State :=
  { (((s.tick 1).log (.portRead port (s.portByte port))).tick 3) with
    portQueue := s.portQueue.tail
    draws := if s.portQueue.isEmpty then s.draws + 1 else s.draws }

/-- `PortWrite(port, v)`: 1 unit, the access, 3 units (R84); an event with no effect on the core (R101). -/
def State.portOut (s : State) (port : Word) (v : Byte) : State :=
  ((s.tick 1).log (.portWrite port v)).tick 3

/-! ## Register-file updates -/

/-- `PC <- v`. -/
def State.setPc (s : State) (v : Word) : State := { s with regs := { s.regs with pc := v } }

/-- `SP <- v`. -/
def State.setSp (s : State) (v : Word) : State := { s with regs := { s.regs with sp := v } }

/-- `MEMPTR <- v` (R41). -/
def State.setMemptr (s : State) (v : Word) : State := { s with regs := { s.regs with memptr := v } }

/-- `IFF1 <- a; IFF2 <- b` (R45). -/
def State.setIff (s : State) (a b : Bool) : State := { s with regs := { s.regs with iff1 := a, iff2 := b } }

/-- `R <- (R + 1) mod 128`, bit 7 apart (R43). -/
def State.bumpR (s : State) : State := { s with regs := { s.regs with r := s.regs.r + 1 } }

/-! ## The stack -/

/-- `Push16(w)`: high byte, then low byte, SP decremented before each write (R92). -/
def State.push16 (s : State) (w : Word) : State :=
  let s1 := s.setSp (s.regs.sp - 1)
  let s2 := s1.busWrite s1.regs.sp (hi w)
  let s3 := s2.setSp (s2.regs.sp - 1)
  s3.busWrite s3.regs.sp (lo w)

/-- The word `Pop16()` returns: low byte at SP, high byte at SP + 1 (R93). -/
def State.stackTop (s : State) : Word := word (s.byteAt (s.regs.sp + 1)) (s.byteAt s.regs.sp)

/-- The effect of `Pop16()`: low byte, then high byte, SP incremented after each read (R93). -/
def State.pop16 (s : State) : State :=
  let s1 := s.busRead s.regs.sp
  let s2 := s1.setSp (s1.regs.sp + 1)
  let s3 := s2.busRead s2.regs.sp
  s3.setSp (s3.regs.sp + 1)

/-- A call: the return address pushed, then the jump, MEMPTR at the target (R408, R416); the extra unit last. -/
def State.callTo (s : State) (target : Word) : State :=
  (((s.push16 s.regs.pc).setPc target).setMemptr target).tick 1

/-- A return: the popped word to PC and MEMPTR (R411). -/
def State.returnPop (s : State) : State := (s.pop16.setPc s.stackTop).setMemptr s.stackTop

/-! ## Interrupt delivery and the return from it -/

/-- The two kinds of request (R460). -/
inductive Interrupt where
  | maskable | nonMaskable
deriving DecidableEq, Repr

/-- Leaving HALT: PC past the HALT byte, `halted` cleared (R463). -/
def State.leaveHalt (s : State) : State :=
  if s.regs.halted then { s with regs := { s.regs with pc := s.regs.pc + 1, halted := false } } else s

/-- The acknowledge: 7 units and one refresh (R464). -/
def State.acknowledge (s : State) : State := (s.tick 7).bumpR

/-- The interrupt-enable flip-flops at delivery (R466): a non-maskable one keeps IFF2. -/
def State.maskIff (s : State) (k : Interrupt) : State :=
  match k with
  | .maskable => s.setIff false false
  | .nonMaskable => s.setIff false s.regs.iff2

/-- The address of the mode-2 vector: I with low byte 0xFF (R468). -/
def State.vectorAddress (s : State) : Word := word s.regs.i 0xFF

/-- The mode-2 vector, little-endian at the vector address (R468). -/
def State.vector (s : State) : Word := word (s.byteAt (s.vectorAddress + 1)) (s.byteAt s.vectorAddress)

/-- The bus reads of the mode-2 vector (R469). -/
def State.readVector (s : State) : State := (s.busRead s.vectorAddress).busRead (s.vectorAddress + 1)

/-- The target of a delivery: PC and MEMPTR at it (R468, R465). -/
def State.enterHandler (s : State) (k : Interrupt) : State :=
  match k, s.regs.im with
  | .nonMaskable, _ => (s.setPc 0x0066).setMemptr 0x0066
  | .maskable, .im2 => (s.readVector.setPc s.vector).setMemptr s.vector
  | .maskable, .im1 => (s.setPc 0x0038).setMemptr 0x0038
  | .maskable, .im0 => (s.setPc 0x0038).setMemptr 0x0038

/-- `Deliver(kind)`: taking an interrupt, in the order of R469. -/
def State.deliver (s : State) (k : Interrupt) : State :=
  let s1 := (s.leaveHalt.acknowledge).maskIff k
  { (s1.push16 s1.regs.pc).enterHandler k with eiLast := false }

/-- `requestMaskableInterrupt()` (R461): delivered only if IFF1 is set and no EI delay holds. -/
def State.requestMaskable (s : State) : State :=
  if s.regs.iff1 && !(s.params.eiDelay && s.eiLast) then s.deliver .maskable else s

/-- `requestNonMaskableInterrupt()` (R462): always delivered. -/
def State.requestNonMaskable (s : State) : State := s.deliver .nonMaskable

/-- Returning from a handler: `IFF1 <- IFF2`, PC popped (R413, R414, R477). -/
def State.returnFromInterrupt (s : State) : State := (s.setIff s.regs.iff2 s.regs.iff2).returnPop

/-- `reset()`: the register file and `eiLast`, and nothing else (R500, R503). -/
def State.resetRegisters (s : State) : State := { s with regs := RegFile.zero, eiLast := false }

/-! ## Undocumented encodings -/

/-- The meaning of an undocumented encoding, refused under `UNDOC_ADMIT = Refuse` (R137, D2). -/
def State.ifAdmitted (s : State) (o : Result) : Result :=
  match s.params.undocAdmit with
  | .admitted => o
  | .refused => .refused .undocumented

end Sys2Proof.Machine
end

