-- ==== Sys2Proof/Machine/Operands.lean ====
section
/-!
DEFINITION. The operand forms: 8-bit views (R32), register codes (R126), index halves (R34), indexed addresses
(R88) and conditions (R49).
-/

namespace Sys2Proof.Machine

/-! ## Eight-bit views -/

/-- `A` (R32). -/
def State.regA (s : State) : Byte := hi s.regs.af
/-- `F` (R32, R37). -/
def State.regF (s : State) : Byte := lo s.regs.af
/-- `B` (R32). -/
def State.regB (s : State) : Byte := hi s.regs.bc
/-- `C` (R32). -/
def State.regC (s : State) : Byte := lo s.regs.bc

/-- The 8-bit register of a code (R126). -/
def State.reg8 (s : State) : Reg8 → Byte
  | .b => hi s.regs.bc
  | .c => lo s.regs.bc
  | .d => hi s.regs.de
  | .e => lo s.regs.de
  | .h => hi s.regs.hl
  | .l => lo s.regs.hl
  | .a => hi s.regs.af

/-- Writing an 8-bit register sets exactly that half of its pair (R32). -/
def State.setReg8 (s : State) (r : Reg8) (v : Byte) : State :=
  match r with
  | .b => { s with regs := { s.regs with bc := word v (lo s.regs.bc) } }
  | .c => { s with regs := { s.regs with bc := word (hi s.regs.bc) v } }
  | .d => { s with regs := { s.regs with de := word v (lo s.regs.de) } }
  | .e => { s with regs := { s.regs with de := word (hi s.regs.de) v } }
  | .h => { s with regs := { s.regs with hl := word v (lo s.regs.hl) } }
  | .l => { s with regs := { s.regs with hl := word (hi s.regs.hl) v } }
  | .a => { s with regs := { s.regs with af := word v (lo s.regs.af) } }

/-- `A <- v` (R32). -/
def State.setA (s : State) (v : Byte) : State := { s with regs := { s.regs with af := word v (lo s.regs.af) } }

/-- `F <- v` (R32, R37). -/
def State.setF (s : State) (v : Byte) : State := { s with regs := { s.regs with af := word (hi s.regs.af) v } }

/-- `(A, F) <- p` (R176 to R180). -/
def State.setAF (s : State) (p : Byte × Byte) : State := { s with regs := { s.regs with af := word p.1 p.2 } }

/-- `F.C` (R37). -/
def State.carry (s : State) : Bool := s.regF.getLsbD 0

/-! ## Pairs and index registers -/

/-- `rp[p]` (R126). -/
def State.pair (s : State) : Pair → Word
  | .bc => s.regs.bc
  | .de => s.regs.de
  | .hl => s.regs.hl
  | .sp => s.regs.sp

/-- `rp[p] <- v` (R126). -/
def State.setPair (s : State) (p : Pair) (v : Word) : State :=
  match p with
  | .bc => { s with regs := { s.regs with bc := v } }
  | .de => { s with regs := { s.regs with de := v } }
  | .hl => { s with regs := { s.regs with hl := v } }
  | .sp => { s with regs := { s.regs with sp := v } }

/-- `rp2[p]` (R126). -/
def State.stackPair (s : State) : StackPair → Word
  | .bc => s.regs.bc
  | .de => s.regs.de
  | .hl => s.regs.hl
  | .af => s.regs.af

/-- `rp2[p] <- v` (R126). -/
def State.setStackPair (s : State) (p : StackPair) (v : Word) : State :=
  match p with
  | .bc => { s with regs := { s.regs with bc := v } }
  | .de => { s with regs := { s.regs with de := v } }
  | .hl => { s with regs := { s.regs with hl := v } }
  | .af => { s with regs := { s.regs with af := v } }

/-- `XY` (R12, R34). -/
def State.index (s : State) : Index → Word
  | .ix => s.regs.ix
  | .iy => s.regs.iy

/-- `XY <- v` (R34). -/
def State.setIndex (s : State) (x : Index) (v : Word) : State :=
  match x with
  | .ix => { s with regs := { s.regs with ix := v } }
  | .iy => { s with regs := { s.regs with iy := v } }

/-- `XYH` (R34). -/
def State.indexHigh (s : State) (x : Index) : Byte := hi (s.index x)

/-- `XYL` (R34). -/
def State.indexLow (s : State) (x : Index) : Byte := lo (s.index x)

/-- `XYH <- v`, the other half kept (R32). -/
def State.setIndexHigh (s : State) (x : Index) (v : Byte) : State := s.setIndex x (word v (s.indexLow x))

/-- `XYL <- v`, the other half kept (R32). -/
def State.setIndexLow (s : State) (x : Index) (v : Byte) : State := s.setIndex x (word (s.indexHigh x) v)

/-- `rp'[p]`: `rp` with HL replaced by XY (R353). -/
def State.indexPair (s : State) (x : Index) : IndexPair → Word
  | .bc => s.regs.bc
  | .de => s.regs.de
  | .xy => s.index x
  | .sp => s.regs.sp

/-- The sources of `LD XYH,r` and `LD XYL,r` (R209). -/
def State.indexSrc (s : State) (x : Index) : IndexSrc → Byte
  | .b => hi s.regs.bc
  | .c => lo s.regs.bc
  | .d => hi s.regs.de
  | .e => lo s.regs.de
  | .xyh => s.indexHigh x
  | .xyl => s.indexLow x
  | .a => hi s.regs.af

/-! ## Addresses -/

/-- The effective address of `(XY+d)` (R88). -/
def State.ea (s : State) (x : Index) (d : Byte) : Word := s.index x + sext16 d

/-- The effective address computed once and cached in MEMPTR (R88, R131). -/
def State.latchEa (s : State) (x : Index) (d : Byte) : State := s.setMemptr (s.ea x d)

/-- `MemRead16(a)`: two reads, low byte first (R13). -/
def State.busRead16 (s : State) (a : Word) : State := (s.busRead a).busRead (a + 1)

/-- The word `MemRead16(a)` returns (R13, R85). -/
def State.wordAt (s : State) (a : Word) : Word := word (s.byteAt (a + 1)) (s.byteAt a)

/-- `MemWrite16(a, w)`: two writes, low byte first (R13). -/
def State.busWrite16 (s : State) (a w : Word) : State := (s.busWrite a (lo w)).busWrite (a + 1) (hi w)

end Sys2Proof.Machine

namespace Sys2Proof

/-! ## Conditions -/


/-- `cond(cc)` on a flag byte (R49). -/
def Cond.holds (cc : Cond) (f : Byte) : Bool :=
  match cc with
  | .nz => !f.getLsbD 6
  | .z => f.getLsbD 6
  | .nc => !f.getLsbD 0
  | .c => f.getLsbD 0
  | .po => !f.getLsbD 2
  | .pe => f.getLsbD 2
  | .p => !f.getLsbD 7
  | .m => f.getLsbD 7

/-- `cond2(cc)` of JR: the first four conditions (R404). -/
def JrCond.toCond : JrCond → Cond
  | .nz => .nz
  | .z => .z
  | .nc => .nc
  | .c => .c

end Sys2Proof
end

