-- ==== Sys2Proof/Machine/Arith16.lean ====
section
/-!
DEFINITION. The 16-bit arithmetic (46_arith16.md R350 to R358).
-/

namespace Sys2Proof.Machine

/-! ## Shared shapes -/

/-- `MEMPTR <- HL + 1; (HL, F) <- p`, extra 7 (R350 to R352). -/
def State.arithHl (s : State) (p : Word × Byte) : State :=
  (((s.setMemptr (s.regs.hl + 1)).setPair .hl p.1).setF p.2).tick 7

/-- `MEMPTR <- XY + 1; (XY, F) <- p`, extra 7 (R353). -/
def State.arithIndex (s : State) (x : Index) (p : Word × Byte) : State :=
  (((s.setMemptr (s.index x + 1)).setIndex x p.1).setF p.2).tick 7

/-! ## Meanings -/

/-- `ADD HL,rp` (R350). -/
def execAddHlRp (p : Pair) (s : State) : Result := .next (s.arithHl (add16 s.regs.hl (s.pair p) s.regF))

/-- `ADC HL,rp` (R351). -/
def execAdcHlRp (p : Pair) (s : State) : Result := .next (s.arithHl (adc16 s.regs.hl (s.pair p) s.carry))

/-- `SBC HL,rp` (R352). -/
def execSbcHlRp (p : Pair) (s : State) : Result := .next (s.arithHl (sbc16 s.regs.hl (s.pair p) s.carry))

/-- `ADD XY,rp` (R353): HL is not touched. -/
def execAddXYRp (x : Index) (p : IndexPair) (s : State) : Result :=
  .next (s.arithIndex x (add16 (s.index x) (s.indexPair x p) s.regF))

/-- `INC rp` (R355), extra 2. -/
def execIncRp (p : Pair) (s : State) : Result := .next ((s.setPair p (s.pair p + 1)).tick 2)

/-- `DEC rp` (R356), extra 2. -/
def execDecRp (p : Pair) (s : State) : Result := .next ((s.setPair p (s.pair p - 1)).tick 2)

/-- `INC XY` (R357), extra 2. -/
def execIncXY (x : Index) (s : State) : Result := .next ((s.setIndex x (s.index x + 1)).tick 2)

/-- `DEC XY` (R358), extra 2. -/
def execDecXY (x : Index) (s : State) : Result := .next ((s.setIndex x (s.index x - 1)).tick 2)

end Sys2Proof.Machine
end

