-- ==== Sys2Proof/Machine/Arith8.lean ====
section
/-!
DEFINITION. The 8-bit arithmetic and logic (44_arith8.md R290 to R307). A meaning runs in the state after the
instruction's own bytes have been fetched.
-/

namespace Sys2Proof.Machine

/-! ## The eight accumulator operations -/

/-- `ADD A,s` with the operand `v` (R290). -/
def State.aluAdd (s : State) (v : Byte) : State := s.setAF (add8 s.regA v false)

/-- `ADC A,s` with the operand `v` (R291). -/
def State.aluAdc (s : State) (v : Byte) : State := s.setAF (add8 s.regA v s.carry)

/-- `SUB s` with the operand `v` (R292). -/
def State.aluSub (s : State) (v : Byte) : State := s.setAF (sub8 s.regA v false)

/-- `SBC A,s` with the operand `v` (R293). -/
def State.aluSbc (s : State) (v : Byte) : State := s.setAF (sub8 s.regA v s.carry)

/-- `AND s` with the operand `v` (R294). -/
def State.aluAnd (s : State) (v : Byte) : State := s.setAF (and8 s.regA v)

/-- `XOR s` with the operand `v` (R295). -/
def State.aluXor (s : State) (v : Byte) : State := s.setAF (xor8 s.regA v)

/-- `OR s` with the operand `v` (R296). -/
def State.aluOr (s : State) (v : Byte) : State := s.setAF (or8 s.regA v)

/-- `CP s` with the operand `v` (R297): A is not written. -/
def State.aluCp (s : State) (v : Byte) : State := s.setF (cp8 s.regA v)

/-! ## Increment and decrement of memory -/

/-- The byte at `a` replaced by the first half of `p` and F by the second: read, then write (R301, R304). -/
def State.rmwFlags (s : State) (a : Word) (p : Byte × Byte) : State := ((s.busRead a).setF p.2).busWrite a p.1

/-! ## Meanings: accumulator operations (operand forms: R298) -/

/-- `ADD A,r` (R290). -/
def execAddAR (r : Reg8) (s : State) : Result := .next (s.aluAdd (s.reg8 r))

/-- `ADD A,(HL)` (R290). -/
def execAddAIndHl (s : State) : Result := .next ((s.busRead s.regs.hl).aluAdd (s.byteAt s.regs.hl))

/-- `ADD A,n` (R290). -/
def execAddAN (n : Byte) (s : State) : Result := .next (s.aluAdd n)

/-- `ADD A,XYH` (R290), undocumented. -/
def execAddAXYH (x : Index) (s : State) : Result := s.ifAdmitted (.next (s.aluAdd (s.indexHigh x)))

/-- `ADD A,XYL` (R290), undocumented. -/
def execAddAXYL (x : Index) (s : State) : Result := s.ifAdmitted (.next (s.aluAdd (s.indexLow x)))

/-- `ADD A,(XY+d)` (R290), extra 5. -/
def execAddAIndXY (x : Index) (d : Byte) (s : State) : Result :=
  .next ((((s.latchEa x d).busRead (s.ea x d)).aluAdd (s.byteAt (s.ea x d))).tick 5)

/-- `ADC A,r` (R291). -/
def execAdcAR (r : Reg8) (s : State) : Result := .next (s.aluAdc (s.reg8 r))

/-- `ADC A,(HL)` (R291). -/
def execAdcAIndHl (s : State) : Result := .next ((s.busRead s.regs.hl).aluAdc (s.byteAt s.regs.hl))

/-- `ADC A,n` (R291). -/
def execAdcAN (n : Byte) (s : State) : Result := .next (s.aluAdc n)

/-- `ADC A,XYH` (R291), undocumented. -/
def execAdcAXYH (x : Index) (s : State) : Result := s.ifAdmitted (.next (s.aluAdc (s.indexHigh x)))

/-- `ADC A,XYL` (R291), undocumented. -/
def execAdcAXYL (x : Index) (s : State) : Result := s.ifAdmitted (.next (s.aluAdc (s.indexLow x)))

/-- `ADC A,(XY+d)` (R291), extra 5. -/
def execAdcAIndXY (x : Index) (d : Byte) (s : State) : Result :=
  .next ((((s.latchEa x d).busRead (s.ea x d)).aluAdc (s.byteAt (s.ea x d))).tick 5)

/-- `SUB r` (R292). -/
def execSubR (r : Reg8) (s : State) : Result := .next (s.aluSub (s.reg8 r))

/-- `SUB (HL)` (R292). -/
def execSubIndHl (s : State) : Result := .next ((s.busRead s.regs.hl).aluSub (s.byteAt s.regs.hl))

/-- `SUB n` (R292). -/
def execSubN (n : Byte) (s : State) : Result := .next (s.aluSub n)

/-- `SUB XYH` (R292), undocumented. -/
def execSubXYH (x : Index) (s : State) : Result := s.ifAdmitted (.next (s.aluSub (s.indexHigh x)))

/-- `SUB XYL` (R292), undocumented. -/
def execSubXYL (x : Index) (s : State) : Result := s.ifAdmitted (.next (s.aluSub (s.indexLow x)))

/-- `SUB (XY+d)` (R292), extra 5. -/
def execSubIndXY (x : Index) (d : Byte) (s : State) : Result :=
  .next ((((s.latchEa x d).busRead (s.ea x d)).aluSub (s.byteAt (s.ea x d))).tick 5)

/-- `SBC A,r` (R293). -/
def execSbcAR (r : Reg8) (s : State) : Result := .next (s.aluSbc (s.reg8 r))

/-- `SBC A,(HL)` (R293). -/
def execSbcAIndHl (s : State) : Result := .next ((s.busRead s.regs.hl).aluSbc (s.byteAt s.regs.hl))

/-- `SBC A,n` (R293). -/
def execSbcAN (n : Byte) (s : State) : Result := .next (s.aluSbc n)

/-- `SBC A,XYH` (R293), undocumented. -/
def execSbcAXYH (x : Index) (s : State) : Result := s.ifAdmitted (.next (s.aluSbc (s.indexHigh x)))

/-- `SBC A,XYL` (R293), undocumented. -/
def execSbcAXYL (x : Index) (s : State) : Result := s.ifAdmitted (.next (s.aluSbc (s.indexLow x)))

/-- `SBC A,(XY+d)` (R293), extra 5. -/
def execSbcAIndXY (x : Index) (d : Byte) (s : State) : Result :=
  .next ((((s.latchEa x d).busRead (s.ea x d)).aluSbc (s.byteAt (s.ea x d))).tick 5)

/-- `AND r` (R294). -/
def execAndR (r : Reg8) (s : State) : Result := .next (s.aluAnd (s.reg8 r))

/-- `AND (HL)` (R294). -/
def execAndIndHl (s : State) : Result := .next ((s.busRead s.regs.hl).aluAnd (s.byteAt s.regs.hl))

/-- `AND n` (R294). -/
def execAndN (n : Byte) (s : State) : Result := .next (s.aluAnd n)

/-- `AND XYH` (R294), undocumented. -/
def execAndXYH (x : Index) (s : State) : Result := s.ifAdmitted (.next (s.aluAnd (s.indexHigh x)))

/-- `AND XYL` (R294), undocumented. -/
def execAndXYL (x : Index) (s : State) : Result := s.ifAdmitted (.next (s.aluAnd (s.indexLow x)))

/-- `AND (XY+d)` (R294), extra 5. -/
def execAndIndXY (x : Index) (d : Byte) (s : State) : Result :=
  .next ((((s.latchEa x d).busRead (s.ea x d)).aluAnd (s.byteAt (s.ea x d))).tick 5)

/-- `XOR r` (R295). -/
def execXorR (r : Reg8) (s : State) : Result := .next (s.aluXor (s.reg8 r))

/-- `XOR (HL)` (R295). -/
def execXorIndHl (s : State) : Result := .next ((s.busRead s.regs.hl).aluXor (s.byteAt s.regs.hl))

/-- `XOR n` (R295). -/
def execXorN (n : Byte) (s : State) : Result := .next (s.aluXor n)

/-- `XOR XYH` (R295), undocumented. -/
def execXorXYH (x : Index) (s : State) : Result := s.ifAdmitted (.next (s.aluXor (s.indexHigh x)))

/-- `XOR XYL` (R295), undocumented. -/
def execXorXYL (x : Index) (s : State) : Result := s.ifAdmitted (.next (s.aluXor (s.indexLow x)))

/-- `XOR (XY+d)` (R295), extra 5. -/
def execXorIndXY (x : Index) (d : Byte) (s : State) : Result :=
  .next ((((s.latchEa x d).busRead (s.ea x d)).aluXor (s.byteAt (s.ea x d))).tick 5)

/-- `OR r` (R296). -/
def execOrR (r : Reg8) (s : State) : Result := .next (s.aluOr (s.reg8 r))

/-- `OR (HL)` (R296). -/
def execOrIndHl (s : State) : Result := .next ((s.busRead s.regs.hl).aluOr (s.byteAt s.regs.hl))

/-- `OR n` (R296). -/
def execOrN (n : Byte) (s : State) : Result := .next (s.aluOr n)

/-- `OR XYH` (R296), undocumented. -/
def execOrXYH (x : Index) (s : State) : Result := s.ifAdmitted (.next (s.aluOr (s.indexHigh x)))

/-- `OR XYL` (R296), undocumented. -/
def execOrXYL (x : Index) (s : State) : Result := s.ifAdmitted (.next (s.aluOr (s.indexLow x)))

/-- `OR (XY+d)` (R296), extra 5. -/
def execOrIndXY (x : Index) (d : Byte) (s : State) : Result :=
  .next ((((s.latchEa x d).busRead (s.ea x d)).aluOr (s.byteAt (s.ea x d))).tick 5)

/-- `CP r` (R297). -/
def execCpR (r : Reg8) (s : State) : Result := .next (s.aluCp (s.reg8 r))

/-- `CP (HL)` (R297). -/
def execCpIndHl (s : State) : Result := .next ((s.busRead s.regs.hl).aluCp (s.byteAt s.regs.hl))

/-- `CP n` (R297). -/
def execCpN (n : Byte) (s : State) : Result := .next (s.aluCp n)

/-- `CP XYH` (R297), undocumented. -/
def execCpXYH (x : Index) (s : State) : Result := s.ifAdmitted (.next (s.aluCp (s.indexHigh x)))

/-- `CP XYL` (R297), undocumented. -/
def execCpXYL (x : Index) (s : State) : Result := s.ifAdmitted (.next (s.aluCp (s.indexLow x)))

/-- `CP (XY+d)` (R297), extra 5. -/
def execCpIndXY (x : Index) (d : Byte) (s : State) : Result :=
  .next ((((s.latchEa x d).busRead (s.ea x d)).aluCp (s.byteAt (s.ea x d))).tick 5)

/-! ## Meanings: increment and decrement -/

/-- `INC r` (R300). -/
def execIncR (r : Reg8) (s : State) : Result :=
  let p := inc8 (s.reg8 r) s.regF
  .next ((s.setF p.2).setReg8 r p.1)

/-- `INC (HL)` (R301), extra 1. -/
def execIncIndHl (s : State) : Result :=
  .next ((s.rmwFlags s.regs.hl (inc8 (s.byteAt s.regs.hl) s.regF)).tick 1)

/-- `INC XYH` (R302), undocumented: no carry or borrow crosses the halves. -/
def execIncXYH (x : Index) (s : State) : Result :=
  let p := inc8 (s.indexHigh x) s.regF
  s.ifAdmitted (.next ((s.setF p.2).setIndexHigh x p.1))

/-- `INC XYL` (R302), undocumented: no carry or borrow crosses the halves. -/
def execIncXYL (x : Index) (s : State) : Result :=
  let p := inc8 (s.indexLow x) s.regF
  s.ifAdmitted (.next ((s.setF p.2).setIndexLow x p.1))

/-- `INC (XY+d)` (R306), extra 6. -/
def execIncIndXY (x : Index) (d : Byte) (s : State) : Result :=
  .next (((s.latchEa x d).rmwFlags (s.ea x d) (inc8 (s.byteAt (s.ea x d)) s.regF)).tick 6)

/-- `DEC r` (R303). -/
def execDecR (r : Reg8) (s : State) : Result :=
  let p := dec8 (s.reg8 r) s.regF
  .next ((s.setF p.2).setReg8 r p.1)

/-- `DEC (HL)` (R304), extra 1. -/
def execDecIndHl (s : State) : Result :=
  .next ((s.rmwFlags s.regs.hl (dec8 (s.byteAt s.regs.hl) s.regF)).tick 1)

/-- `DEC XYH` (R305), undocumented: no carry or borrow crosses the halves. -/
def execDecXYH (x : Index) (s : State) : Result :=
  let p := dec8 (s.indexHigh x) s.regF
  s.ifAdmitted (.next ((s.setF p.2).setIndexHigh x p.1))

/-- `DEC XYL` (R305), undocumented: no carry or borrow crosses the halves. -/
def execDecXYL (x : Index) (s : State) : Result :=
  let p := dec8 (s.indexLow x) s.regF
  s.ifAdmitted (.next ((s.setF p.2).setIndexLow x p.1))

/-- `DEC (XY+d)` (R307), extra 6. -/
def execDecIndXY (x : Index) (d : Byte) (s : State) : Result :=
  .next (((s.latchEa x d).rmwFlags (s.ea x d) (dec8 (s.byteAt (s.ea x d)) s.regF)).tick 6)

end Sys2Proof.Machine
end

