-- ==== Sys2Proof/Machine/Control.lean ====
section
/-!
DEFINITION. Accumulator adjust, flag control and CPU control (45_cpu_control.md R320 to R335).
-/

namespace Sys2Proof.Machine

/-! ## Shared shapes -/

/-- `NEG`: 0 - A (R322). -/
def State.negate (s : State) : State := s.setAF (sub8 0 s.regA false)

/-- `IM <- m` (R332 to R334). -/
def State.setIm (s : State) (m : IntMode) : State := { s with regs := { s.regs with im := m } }

/-- The refresh register as software reads it: `{R7, R}` (R43). -/
def State.refresh (s : State) : Byte := BitVec.ofBool s.regs.r7 ++ s.regs.r

/-- `A <- v` with the flags of LD A,I and LD A,R (R330, R335). -/
def State.loadAIR (s : State) (v : Byte) : State := s.setAF (v, loadIRFlags v s.regF s.regs.iff2)

/-! ## Meanings -/

/-- `DAA` (R320). -/
def execDaa (s : State) : Result := .next (s.setAF (daa8 s.regA s.regF))

/-- `CPL` (R321). -/
def execCpl (s : State) : Result := .next (s.setAF (cpl8 s.regA s.regF))

/-- `NEG` (R322). -/
def execNeg (s : State) : Result := .next s.negate

/-- The mirrors of `NEG` (R322), undocumented; the encoding's field has no effect. -/
def execNegAlias (_y : BitVec 3) (s : State) : Result := s.ifAdmitted (.next s.negate)

/-- `CCF` (R323). -/
def execCcf (s : State) : Result := .next (s.setF (ccfFlags s.regA s.regF))

/-- `SCF` (R324). -/
def execScf (s : State) : Result := .next (s.setF (scfFlags s.regA s.regF))

/-- `NOP` (R325): the fetch alone. -/
def execNop (s : State) : Result := .next s

/-- `HALT` (R326): PC goes back to the HALT byte. -/
def execHalt (s : State) : Result :=
  .next { s with regs := { s.regs with halted := true, pc := s.regs.pc - 1 } }

/-- `DI` (R327). -/
def execDi (s : State) : Result := .next (s.setIff false false)

/-- `EI` (R328): `eiLast` is set only when `EI_DELAY = true`. -/
def execEi (s : State) : Result := .next { s.setIff true true with eiLast := s.params.eiDelay }

/-- `LD I,A` (R329), extra 1. -/
def execLdIA (s : State) : Result := .next ({ s with regs := { s.regs with i := s.regA } }.tick 1)

/-- `LD A,I` (R330), extra 1. -/
def execLdAI (s : State) : Result := .next ((s.loadAIR s.regs.i).tick 1)

/-- `LD R,A` (R331), extra 1. -/
def execLdRA (s : State) : Result :=
  .next ({ s with regs := { s.regs with r := s.regA.setWidth 7, r7 := s.regA.getLsbD 7 } }.tick 1)

/-- `LD A,R` (R335), extra 1. -/
def execLdAR (s : State) : Result := .next ((s.loadAIR s.refresh).tick 1)

/-- `IM 0` (R332). -/
def execIm0 (s : State) : Result := .next (s.setIm .im0)

/-- The mirrors of `IM 0` (R332), undocumented; the encoding's field has no effect. -/
def execIm0Alias (_y : BitVec 3) (s : State) : Result := s.ifAdmitted (.next (s.setIm .im0))

/-- `IM 1` (R333). -/
def execIm1 (s : State) : Result := .next (s.setIm .im1)

/-- The mirror of `IM 1` (R333), undocumented. -/
def execIm1Alias (s : State) : Result := s.ifAdmitted (.next (s.setIm .im1))

/-- `IM 2` (R334). -/
def execIm2 (s : State) : Result := .next (s.setIm .im2)

/-- The mirror of `IM 2` (R334), undocumented. -/
def execIm2Alias (s : State) : Result := s.ifAdmitted (.next (s.setIm .im2))

end Sys2Proof.Machine
end

