-- ==== Sys2Proof/Machine/Exchange.lean ====
section
/-!
DEFINITION. The exchanges, block transfer and block compare (43_exchange_block.md R260 to R273).
-/

namespace Sys2Proof.Machine

/-! ## Shared shapes -/

/-- The stack word swapped with `w`: two reads, low first, then two writes, high first (R263, R273). -/
def State.swapStack (s : State) (w : Word) : State :=
  ((s.busRead16 s.regs.sp).busWrite (s.regs.sp + 1) (hi w)).busWrite s.regs.sp (lo w)

/-- The direction of a block instruction. -/
inductive Direction where
  | up | down
deriving DecidableEq, Repr

/-- One step of an address: `+16 1` or `-16 1`. -/
def Direction.move (d : Direction) (a : Word) : Word :=
  match d with
  | .up => a + 1
  | .down => a - 1

/-- The body of LDI and LDD (R265, R266): one byte from (HL) to (DE), the pointers moved, BC counted down. -/
def State.blockLoad (s : State) (d : Direction) : State :=
  let v := s.byteAt s.regs.hl
  let s1 := (s.busRead s.regs.hl).busWrite s.regs.de v
  let bc := s.regs.bc - 1
  { s1 with regs := { s1.regs with
      hl := d.move s.regs.hl, de := d.move s.regs.de, bc := bc
      af := word s.regA (blockLoadFlags s.regA v s.regF bc) } }.tick 2

/-- The body of CPI and CPD (R269, R270): A against (HL), the pointer and MEMPTR moved, BC counted down. -/
def State.blockCompare (s : State) (d : Direction) : State :=
  let v := s.byteAt s.regs.hl
  let s1 := s.busRead s.regs.hl
  let bc := s.regs.bc - 1
  { s1 with regs := { s1.regs with
      hl := d.move s.regs.hl, bc := bc, memptr := d.move s.regs.memptr
      af := word s.regA (blockCompareFlags s.regA v s.regF bc) } }.tick 5

/-- The rewind of a repeating block instruction: PC back to the 0xED byte, 5 more units (R264). -/
def State.rewind (s : State) : State := (s.setPc (s.regs.pc - 2)).tick 5

/-- The rewind of LDIR, LDDR, CPIR and CPDR, which also sets MEMPTR to that address plus 1 (R264). -/
def State.rewindLatch (s : State) : State := (s.setMemptr (s.regs.pc - 2 + 1)).rewind

/-- LDIR and LDDR: repeat while BC is not 0 (R267, R268). -/
def State.blockLoadRepeat (s : State) (d : Direction) : State :=
  let t := s.blockLoad d
  if t.regs.bc != 0 then t.rewindLatch else t

/-- CPIR and CPDR: repeat while BC is not 0 and no match, read from PV and Z (R271, R272). -/
def State.blockCompareRepeat (s : State) (d : Direction) : State :=
  let t := s.blockCompare d
  if t.regF &&& (flagPV ||| flagZ) == flagPV then t.rewindLatch else t

/-! ## Meanings -/

/-- `EX AF,AF'` (R260). -/
def execExAfAf (s : State) : Result :=
  .next { s with regs := { s.regs with af := s.regs.afAlt, afAlt := s.regs.af } }

/-- `EXX` (R261). -/
def execExx (s : State) : Result :=
  .next { s with regs := { s.regs with
    bc := s.regs.bcAlt, de := s.regs.deAlt, hl := s.regs.hlAlt
    bcAlt := s.regs.bc, deAlt := s.regs.de, hlAlt := s.regs.hl } }

/-- `EX DE,HL` (R262). -/
def execExDeHl (s : State) : Result := .next { s with regs := { s.regs with de := s.regs.hl, hl := s.regs.de } }

/-- `EX (SP),HL` (R263), extra 3: the new HL also goes to MEMPTR. -/
def execExIndSpHl (s : State) : Result :=
  let w := s.wordAt s.regs.sp
  .next ((((s.swapStack s.regs.hl).setPair .hl w).setMemptr w).tick 3)

/-- `EX (SP),XY` (R273), extra 3: the new XY also goes to MEMPTR. -/
def execExIndSpXY (x : Index) (s : State) : Result :=
  let w := s.wordAt s.regs.sp
  .next ((((s.swapStack (s.index x)).setIndex x w).setMemptr w).tick 3)

/-- `LDI` (R265). -/
def execLdi (s : State) : Result := .next (s.blockLoad .up)

/-- `LDD` (R266). -/
def execLdd (s : State) : Result := .next (s.blockLoad .down)

/-- `LDIR` (R267), one iteration. -/
def execLdir (s : State) : Result := .next (s.blockLoadRepeat .up)

/-- `LDDR` (R268), one iteration. -/
def execLddr (s : State) : Result := .next (s.blockLoadRepeat .down)

/-- `CPI` (R269). -/
def execCpi (s : State) : Result := .next (s.blockCompare .up)

/-- `CPD` (R270). -/
def execCpd (s : State) : Result := .next (s.blockCompare .down)

/-- `CPIR` (R271), one iteration. -/
def execCpir (s : State) : Result := .next (s.blockCompareRepeat .up)

/-- `CPDR` (R272), one iteration. -/
def execCpdr (s : State) : Result := .next (s.blockCompareRepeat .down)

end Sys2Proof.Machine
end

