-- ==== Sys2Proof/WellFormed.lean ====
section
/-!
DEFINITION. Which instruction terms an encoding exists for.

Most operand types admit exactly what their field admits. The checks below are the rows of
spec/opcode_table.json whose field has values excluded beyond code 6 ("(HL)"), and the two unassigned rows.
-/

namespace Sys2Proof

/-- The ED bytes that R142 assigns: x = 1 less 0x77 and 0x7F, and the sixteen block instructions. -/
def edAssigned (b : Byte) : Bool :=
  (0x40 ≤ b.toNat && b.toNat ≤ 0x7F && b.toNat != 0x77 && b.toNat != 0x7F)
    || (0xA0 ≤ b.toNat && b.toNat ≤ 0xBF && b.toNat % 8 ≤ 3)

/-- The DD/FD bytes with z in {4, 5, 6} (H, L or (HL) as source or operand) in the two middle quarters,
or with y in {4, 5, 6} in the load quarter: the R145 rows from `LD r,XYH` to `ALU A,(XY+d)`, without 0x76. -/
def xyMiddleAssigned (b : Byte) : Bool :=
  let z := b.toNat % 8
  let y := b.toNat / 8 % 8
  (b.toNat / 64 == 1 && b.toNat != 0x76 && (4 ≤ z && z ≤ 6 || 4 ≤ y && y ≤ 6))
    || (b.toNat / 64 == 2 && 4 ≤ z && z ≤ 6)

/-- The DD/FD bytes that R145 assigns (86 of them, the escape 0xCB among them). -/
def xyAssigned (b : Byte) : Bool :=
  xyMiddleAssigned b
    || [0x09, 0x19, 0x29, 0x39, 0x21, 0x22, 0x2A, 0x23, 0x2B, 0x24, 0x2C, 0x25, 0x2D, 0x26, 0x2E,
        0x34, 0x35, 0x36, 0xCB, 0xE1, 0xE5, 0xE3, 0xE9, 0xF9].contains b.toNat

/-- H and L have no place in `LD r,XYH`, `LD r,XYL` (R208) and `LD (XY+d),r` (rows of their own, R214). -/
def Reg8.isHOrL : Reg8 → Bool
  | .h => true
  | .l => true
  | .b => false
  | .c => false
  | .d => false
  | .e => false
  | .a => false

/-- The check of one instruction: `true` when the tables hold an encoding of it. -/
def Instr.wellFormed : Instr → Bool
  | .ldRXYH r _ => !r.isHOrL
  | .ldRXYL r _ => !r.isHOrL
  | .ldIndXYR _ _ r => !r.isHOrL
  | .negAlias y => y != 0
  | .retnAlias y => y != 0 && y != 1
  | .im0Alias y => y == 1 || y == 4 || y == 5
  | .unassignedED b => !edAssigned b
  | .unassignedXY _ b => !xyAssigned b
  | _ => true

end Sys2Proof
end

