-- ==== Sys2Proof/Decode.lean ====
section
/-!
DEFINITION. The decoder, the formats and, after them, the encoder (30_encoding.md R125 to R146).

`decodeWindow` reads the instruction at the head of four bytes; four are enough for any instruction (R132), and
every four bytes hold one (R135: no encoding is illegal). `decode` reads the head of a byte list of any length
and rejects by name a list that ends inside an instruction.
-/

namespace Sys2Proof

/-! ## Fields and codes -/

/-- `x = b[7:6]` (R125). -/
def opX (b : Byte) : BitVec 2 := b.extractLsb' 6 2
/-- `y = b[5:3]` (R125). -/
def opY (b : Byte) : BitVec 3 := b.extractLsb' 3 3
/-- `z = b[2:0]` (R125). -/
def opZ (b : Byte) : BitVec 3 := b.extractLsb' 0 3
/-- `p = b[5:4]` (R125). -/
def opP (b : Byte) : BitVec 2 := b.extractLsb' 4 2
/-- `q = b[3]` (R125). -/
def opQ (b : Byte) : Bool := b.getLsbD 3
/-- The 2-bit condition field `b[4:3]` of `JR cc` (R127). -/
def opCc (b : Byte) : BitVec 2 := b.extractLsb' 3 2

/-- Register codes (R126); code 6 is `(HL)`, no register. -/
def Reg8.ofCode : BitVec 3 → Option Reg8
  | 0 => some .b
  | 1 => some .c
  | 2 => some .d
  | 3 => some .e
  | 4 => some .h
  | 5 => some .l
  | 6 => none
  | 7 => some .a

/-- The code of a register (R126). -/
def Reg8.code : Reg8 → BitVec 3
  | .b => 0
  | .c => 1
  | .d => 2
  | .e => 3
  | .h => 4
  | .l => 5
  | .a => 7

/-- Pair codes `rp` (R126). -/
def Pair.ofCode : BitVec 2 → Pair
  | 0 => .bc
  | 1 => .de
  | 2 => .hl
  | 3 => .sp

/-- The code of a pair `rp` (R126). -/
def Pair.code : Pair → BitVec 2
  | .bc => 0
  | .de => 1
  | .hl => 2
  | .sp => 3

/-- Pair codes `rp2` (R126). -/
def StackPair.ofCode : BitVec 2 → StackPair
  | 0 => .bc
  | 1 => .de
  | 2 => .hl
  | 3 => .af

/-- The code of a pair `rp2` (R126). -/
def StackPair.code : StackPair → BitVec 2
  | .bc => 0
  | .de => 1
  | .hl => 2
  | .af => 3

/-- Pair codes of `ADD XY,rp` (R353). -/
def IndexPair.ofCode : BitVec 2 → IndexPair
  | 0 => .bc
  | 1 => .de
  | 2 => .xy
  | 3 => .sp

/-- The code of a pair of `ADD XY,rp` (R353). -/
def IndexPair.code : IndexPair → BitVec 2
  | .bc => 0
  | .de => 1
  | .xy => 2
  | .sp => 3

/-- Source codes of `LD XYH,r` and `LD XYL,r` (R209); code 6 is `(XY+d)`, another instruction. -/
def IndexSrc.ofCode : BitVec 3 → Option IndexSrc
  | 0 => some .b
  | 1 => some .c
  | 2 => some .d
  | 3 => some .e
  | 4 => some .xyh
  | 5 => some .xyl
  | 6 => none
  | 7 => some .a

/-- The code of a source of `LD XYH,r` and `LD XYL,r` (R209). -/
def IndexSrc.code : IndexSrc → BitVec 3
  | .b => 0
  | .c => 1
  | .d => 2
  | .e => 3
  | .xyh => 4
  | .xyl => 5
  | .a => 7

/-- Condition codes (R49, R127). -/
def Cond.ofCode : BitVec 3 → Cond
  | 0 => .nz
  | 1 => .z
  | 2 => .nc
  | 3 => .c
  | 4 => .po
  | 5 => .pe
  | 6 => .p
  | 7 => .m

/-- The code of a condition (R49, R127). -/
def Cond.code : Cond → BitVec 3
  | .nz => 0
  | .z => 1
  | .nc => 2
  | .c => 3
  | .po => 4
  | .pe => 5
  | .p => 6
  | .m => 7

/-- The 2-bit condition codes of JR (R127). -/
def JrCond.ofCode : BitVec 2 → JrCond
  | 0 => .nz
  | 1 => .z
  | 2 => .nc
  | 3 => .c

/-- The code of a JR condition (R127). -/
def JrCond.code : JrCond → BitVec 2
  | .nz => 0
  | .z => 1
  | .nc => 2
  | .c => 3

/-- The lead-in byte of an index register (R131). -/
def Index.leadIn : Index → Byte
  | .ix => 0xDD
  | .iy => 0xFD

/-- The table a lead-in byte selects (R131). -/
def Index.table : Index → Table
  | .ix => .dd
  | .iy => .fd

/-! ## The tables -/

/-- ALU code `aaa` with a register operand (R128, R139 `10aaasss`). -/
def decodeAluR (r : Reg8) : BitVec 3 → Instr
  | 0 => .addAR r
  | 1 => .adcAR r
  | 2 => .subR r
  | 3 => .sbcAR r
  | 4 => .andR r
  | 5 => .xorR r
  | 6 => .orR r
  | 7 => .cpR r

/-- ALU code `aaa` with operand `(HL)` (R128, R139 `10aaa110`). -/
def decodeAluIndHl : BitVec 3 → Instr
  | 0 => .addAIndHl
  | 1 => .adcAIndHl
  | 2 => .subIndHl
  | 3 => .sbcAIndHl
  | 4 => .andIndHl
  | 5 => .xorIndHl
  | 6 => .orIndHl
  | 7 => .cpIndHl

/-- ALU code `aaa` with an immediate (R128, R139 `11aaa110`). -/
def decodeAluN (n : Byte) : BitVec 3 → Instr
  | 0 => .addAN n
  | 1 => .adcAN n
  | 2 => .subN n
  | 3 => .sbcAN n
  | 4 => .andN n
  | 5 => .xorN n
  | 6 => .orN n
  | 7 => .cpN n

/-- ALU code `aaa` with the high half of an index register (R145 `10aaa100`). -/
def decodeAluXYH (x : Index) : BitVec 3 → Instr
  | 0 => .addAXYH x
  | 1 => .adcAXYH x
  | 2 => .subXYH x
  | 3 => .sbcAXYH x
  | 4 => .andXYH x
  | 5 => .xorXYH x
  | 6 => .orXYH x
  | 7 => .cpXYH x

/-- ALU code `aaa` with the low half of an index register (R145 `10aaa101`). -/
def decodeAluXYL (x : Index) : BitVec 3 → Instr
  | 0 => .addAXYL x
  | 1 => .adcAXYL x
  | 2 => .subXYL x
  | 3 => .sbcAXYL x
  | 4 => .andXYL x
  | 5 => .xorXYL x
  | 6 => .orXYL x
  | 7 => .cpXYL x

/-- ALU code `aaa` with an indexed byte (R145 `10aaa110`). -/
def decodeAluIndXY (x : Index) (d : Byte) : BitVec 3 → Instr
  | 0 => .addAIndXY x d
  | 1 => .adcAIndXY x d
  | 2 => .subIndXY x d
  | 3 => .sbcAIndXY x d
  | 4 => .andIndXY x d
  | 5 => .xorIndXY x d
  | 6 => .orIndXY x d
  | 7 => .cpIndXY x d

/-- BASE `00yyyzzz` (R139, R140). -/
def decodeBase0 (b n1 n2 : Byte) : Instr :=
  let y := opY b
  match opZ b with
  | 0 =>
    match y with
    | 0 => .nop
    | 1 => .exAfAf
    | 2 => .djnz n1
    | 3 => .jr n1
    | _ => .jrCc (JrCond.ofCode (opCc b)) n1
  | 1 => if opQ b then .addHlRp (Pair.ofCode (opP b)) else .ldRpNn (Pair.ofCode (opP b)) (word n2 n1)
  | 2 =>
    match y with
    | 0 => .ldIndBcA
    | 1 => .ldAIndBc
    | 2 => .ldIndDeA
    | 3 => .ldAIndDe
    | 4 => .ldIndNnHl (word n2 n1)
    | 5 => .ldHlIndNn (word n2 n1)
    | 6 => .ldIndNnA (word n2 n1)
    | 7 => .ldAIndNn (word n2 n1)
  | 3 => if opQ b then .decRp (Pair.ofCode (opP b)) else .incRp (Pair.ofCode (opP b))
  | 4 =>
    match Reg8.ofCode y with
    | some r => .incR r
    | none => .incIndHl
  | 5 =>
    match Reg8.ofCode y with
    | some r => .decR r
    | none => .decIndHl
  | 6 =>
    match Reg8.ofCode y with
    | some r => .ldRN r n1
    | none => .ldIndHlN n1
  | 7 =>
    match y with
    | 0 => .rlca
    | 1 => .rrca
    | 2 => .rla
    | 3 => .rra
    | 4 => .daa
    | 5 => .cpl
    | 6 => .scf
    | 7 => .ccf

/-- BASE `01dddsss`: loads and HALT (R139). -/
def decodeBase1 (b : Byte) : Instr :=
  match Reg8.ofCode (opY b), Reg8.ofCode (opZ b) with
  | some dst, some src => .ldRR dst src
  | some dst, none => .ldRIndHl dst
  | none, some src => .ldIndHlR src
  | none, none => .halt

/-- BASE `10aaasss`: the accumulator operations (R139). -/
def decodeBase2 (b : Byte) : Instr :=
  match Reg8.ofCode (opZ b) with
  | some r => decodeAluR r (opY b)
  | none => decodeAluIndHl (opY b)

/-- BASE `11yyyzzz` (R139, R140). The bytes 0xCB, 0xDD, 0xED and 0xFD are the router's entries (R131). -/
def decodeBase3 (b n1 n2 : Byte) : Instr :=
  let y := opY b
  match opZ b with
  | 0 => .retCc (Cond.ofCode y)
  | 1 =>
    match y with
    | 1 => .ret
    | 3 => .exx
    | 5 => .jpIndHl
    | 7 => .ldSpHl
    | _ => .popRp2 (StackPair.ofCode (opP b))
  | 2 => .jpCcNn (Cond.ofCode y) (word n2 n1)
  | 3 =>
    match y with
    | 0 => .jpNn (word n2 n1)
    | 1 => .prefixCB
    | 2 => .outIndNA n1
    | 3 => .inAIndN n1
    | 4 => .exIndSpHl
    | 5 => .exDeHl
    | 6 => .di
    | 7 => .ei
  | 4 => .callCcNn (Cond.ofCode y) (word n2 n1)
  | 5 =>
    match y with
    | 1 => .callNn (word n2 n1)
    | 3 => .prefixDD
    | 5 => .prefixED
    | 7 => .prefixFD
    | _ => .pushRp2 (StackPair.ofCode (opP b))
  | 6 => decodeAluN n1 y
  | 7 => .rst y

/-- The `BASE` table (R139): an opcode byte and the two bytes after it. -/
def decodeBase (b n1 n2 : Byte) : Instr :=
  match opX b with
  | 0 => decodeBase0 b n1 n2
  | 1 => decodeBase1 b
  | 2 => decodeBase2 b
  | 3 => decodeBase3 b n1 n2

/-- Rotate code `ooo` on a register (R128, R141). -/
def decodeRotR (r : Reg8) : BitVec 3 → Instr
  | 0 => .rlcR r
  | 1 => .rrcR r
  | 2 => .rlR r
  | 3 => .rrR r
  | 4 => .slaR r
  | 5 => .sraR r
  | 6 => .sllR r
  | 7 => .srlR r

/-- Rotate code `ooo` on `(HL)` (R128, R141). -/
def decodeRotIndHl : BitVec 3 → Instr
  | 0 => .rlcIndHl
  | 1 => .rrcIndHl
  | 2 => .rlIndHl
  | 3 => .rrIndHl
  | 4 => .slaIndHl
  | 5 => .sraIndHl
  | 6 => .sllIndHl
  | 7 => .srlIndHl

/-- The `CB` table (R141). -/
def decodeCB (b : Byte) : Instr :=
  let y := opY b
  match opX b, Reg8.ofCode (opZ b) with
  | 0, some r => decodeRotR r y
  | 0, none => decodeRotIndHl y
  | 1, some r => .bitR y r
  | 1, none => .bitIndHl y
  | 2, some r => .resR y r
  | 2, none => .resIndHl y
  | 3, some r => .setR y r
  | 3, none => .setIndHl y

/-- ED `01yyy111`: the I, R and nibble-rotate row of R142; 0x77 and 0x7F are unassigned (R136). -/
def decodeED7 (b : Byte) : Instr :=
  match opY b with
  | 0 => .ldIA
  | 1 => .ldRA
  | 2 => .ldAI
  | 3 => .ldAR
  | 4 => .rrd
  | 5 => .rld
  | _ => .unassignedED b

/-- ED `01yyyzzz` (R142, R143). -/
def decodeED1 (b n1 n2 : Byte) : Instr :=
  let y := opY b
  match opZ b with
  | 0 =>
    match Reg8.ofCode y with
    | some r => .inRIndC r
    | none => .inFIndC
  | 1 =>
    match Reg8.ofCode y with
    | some r => .outIndCR r
    | none => .outIndC0
  | 2 => if opQ b then .adcHlRp (Pair.ofCode (opP b)) else .sbcHlRp (Pair.ofCode (opP b))
  | 3 => if opQ b then .ldRpIndNn (Pair.ofCode (opP b)) (word n2 n1)
         else .ldIndNnRp (word n2 n1) (Pair.ofCode (opP b))
  | 4 => if y = 0 then .neg else .negAlias y
  | 5 => if y = 0 then .retn else if y = 1 then .reti else .retnAlias y
  | 6 =>
    match y with
    | 0 => .im0
    | 2 => .im1
    | 3 => .im2
    | 6 => .im1Alias
    | 7 => .im2Alias
    | _ => .im0Alias y
  | 7 => decodeED7 b

/-- ED `101yyzzz`, z below 4: the sixteen block instructions (R142); the other bytes are unassigned (R136). -/
def decodeED2 (b : Byte) : Instr :=
  match opY b, opZ b with
  | 4, 0 => .ldi
  | 4, 1 => .cpi
  | 4, 2 => .ini
  | 4, 3 => .outi
  | 5, 0 => .ldd
  | 5, 1 => .cpd
  | 5, 2 => .ind
  | 5, 3 => .outd
  | 6, 0 => .ldir
  | 6, 1 => .cpir
  | 6, 2 => .inir
  | 6, 3 => .otir
  | 7, 0 => .lddr
  | 7, 1 => .cpdr
  | 7, 2 => .indr
  | 7, 3 => .otdr
  | _, _ => .unassignedED b

/-- The `ED` table (R142). -/
def decodeED (b n1 n2 : Byte) : Instr :=
  match opX b with
  | 1 => decodeED1 b n1 n2
  | 2 => decodeED2 b
  | _ => .unassignedED b

/-- DD/FD `01yyyzzz` (R145): loads with XYH, XYL or `(XY+d)`. -/
def decodeXY1 (x : Index) (b n1 : Byte) : Instr :=
  match opY b with
  | 4 =>
    match IndexSrc.ofCode (opZ b) with
    | some src => .ldXYHR x src
    | none => .ldRIndXY .h x n1
  | 5 =>
    match IndexSrc.ofCode (opZ b) with
    | some src => .ldXYLR x src
    | none => .ldRIndXY .l x n1
  | 6 =>
    match Reg8.ofCode (opZ b) with
    | some .h => .ldIndXYRegH x n1
    | some .l => .ldIndXYRegL x n1
    | some r => .ldIndXYR x n1 r
    | none => .unassignedXY x b
  | _ =>
    match Reg8.ofCode (opY b), opZ b with
    | some r, 4 => .ldRXYH r x
    | some r, 5 => .ldRXYL r x
    | some r, 6 => .ldRIndXY r x n1
    | _, _ => .unassignedXY x b

/-- DD/FD `10aaazzz` (R145): accumulator operations with XYH, XYL or `(XY+d)`. -/
def decodeXY2 (x : Index) (b n1 : Byte) : Instr :=
  match opZ b with
  | 4 => decodeAluXYH x (opY b)
  | 5 => decodeAluXYL x (opY b)
  | 6 => decodeAluIndXY x n1 (opY b)
  | _ => .unassignedXY x b

/-- The other rows of the `DD` and `FD` tables, byte by byte as R145 lists them. -/
def decodeXYRest (x : Index) (b n1 n2 : Byte) : Instr :=
  if b = 0x09 then .addXYRp x .bc
  else if b = 0x19 then .addXYRp x .de
  else if b = 0x29 then .addXYRp x .xy
  else if b = 0x39 then .addXYRp x .sp
  else if b = 0x21 then .ldXYNn x (word n2 n1)
  else if b = 0x22 then .ldIndNnXY (word n2 n1) x
  else if b = 0x2A then .ldXYIndNn x (word n2 n1)
  else if b = 0x23 then .incXY x
  else if b = 0x2B then .decXY x
  else if b = 0x24 then .incXYH x
  else if b = 0x2C then .incXYL x
  else if b = 0x25 then .decXYH x
  else if b = 0x2D then .decXYL x
  else if b = 0x26 then .ldXYHN x n1
  else if b = 0x2E then .ldXYLN x n1
  else if b = 0x34 then .incIndXY x n1
  else if b = 0x35 then .decIndXY x n1
  else if b = 0x36 then .ldIndXYN x n1 n2
  else if b = 0xCB then .prefixXYCB x
  else if b = 0xE1 then .popXY x
  else if b = 0xE5 then .pushXY x
  else if b = 0xE3 then .exIndSpXY x
  else if b = 0xE9 then .jpIndXY x
  else if b = 0xF9 then .ldSpXY x
  else .unassignedXY x b

/-- The `DD` and `FD` tables (R144, R145). -/
def decodeXY (x : Index) (b n1 n2 : Byte) : Instr :=
  match opX b with
  | 1 => decodeXY1 x b n1
  | 2 => decodeXY2 x b n1
  | _ => decodeXYRest x b n1 n2

/-- Rotate code `ooo` on an indexed byte (R128, R146). -/
def decodeRotIndXY (x : Index) (d : Byte) : BitVec 3 → Instr
  | 0 => .rlcIndXY x d
  | 1 => .rrcIndXY x d
  | 2 => .rlIndXY x d
  | 3 => .rrIndXY x d
  | 4 => .slaIndXY x d
  | 5 => .sraIndXY x d
  | 6 => .sllIndXY x d
  | 7 => .srlIndXY x d

/-- Rotate code `ooo` on an indexed byte, with register copy (R128, R146). -/
def decodeRotIndXYR (x : Index) (d : Byte) (r : Reg8) : BitVec 3 → Instr
  | 0 => .rlcIndXYR x d r
  | 1 => .rrcIndXYR x d r
  | 2 => .rlIndXYR x d r
  | 3 => .rrIndXYR x d r
  | 4 => .slaIndXYR x d r
  | 5 => .sraIndXYR x d r
  | 6 => .sllIndXYR x d r
  | 7 => .srlIndXYR x d r

/-- The `DDCB` and `FDCB` tables (R146): the displacement and the fourth byte. -/
def decodeXYCB (x : Index) (d b : Byte) : Instr :=
  let y := opY b
  match opX b, Reg8.ofCode (opZ b) with
  | 0, some r => decodeRotIndXYR x d r y
  | 0, none => decodeRotIndXY x d y
  | 1, some r => .bitIndXYAlias y x d r
  | 1, none => .bitIndXY y x d
  | 2, some r => .resIndXYR y x d r
  | 2, none => .resIndXY y x d
  | 3, some r => .setIndXYR y x d r
  | 3, none => .setIndXY y x d

/-- A DD or FD lead-in byte and the three bytes after it (R131). -/
def decodeIndexed (x : Index) (b1 b2 b3 : Byte) : Instr :=
  if b1 = 0xCB then decodeXYCB x b2 b3 else decodeXY x b1 b2 b3

/-- The instruction at the head of four bytes: the router's whole chain of tables (R131). -/
def decodeWindow (b0 b1 b2 b3 : Byte) : Instr :=
  if b0 = 0xCB then decodeCB b1
  else if b0 = 0xED then decodeED b1 b2 b3
  else if b0 = 0xDD then decodeIndexed .ix b1 b2 b3
  else if b0 = 0xFD then decodeIndexed .iy b1 b2 b3
  else decodeBase b0 b1 b2

/-! ## Formats, lengths and fetches -/

/-- The instruction formats of R132; `p1` and `p2` are the router's lead-in bytes alone. -/
inductive Format where
  | b1 | b2n | b2e | b3nn | cb2 | ed2 | ed4nn | x2 | x3n | x3d | x4nn | x4dn | xcb4 | p1 | p2
deriving DecidableEq, Repr

/-- How a byte of an instruction is fetched: `FetchOp` (R121) or one of the operand fetches (R122 to R124). -/
inductive FetchKind where
  | op | operand
deriving DecidableEq, Repr

/-- The fetches of a format, in order (R131, R132, R124: the last two bytes of `xcb4` are no M1 fetches). -/
def Format.fetches : Format → List FetchKind
  | .b1 => [.op]
  | .b2n => [.op, .operand]
  | .b2e => [.op, .operand]
  | .b3nn => [.op, .operand, .operand]
  | .cb2 => [.op, .op]
  | .ed2 => [.op, .op]
  | .ed4nn => [.op, .op, .operand, .operand]
  | .x2 => [.op, .op]
  | .x3n => [.op, .op, .operand]
  | .x3d => [.op, .op, .operand]
  | .x4nn => [.op, .op, .operand, .operand]
  | .x4dn => [.op, .op, .operand, .operand]
  | .xcb4 => [.op, .op, .operand, .operand]
  | .p1 => [.op]
  | .p2 => [.op, .op]

/-- The format column of spec/opcode_table.json (R132). -/
def Instr.format : Instr → Format
  | .nop => .b1
  | .ldRpNn _ _ => .b3nn
  | .ldIndBcA => .b1
  | .ldIndDeA => .b1
  | .ldAIndBc => .b1
  | .ldAIndDe => .b1
  | .incRp _ => .b1
  | .decRp _ => .b1
  | .incR _ => .b1
  | .incIndHl => .b1
  | .decR _ => .b1
  | .decIndHl => .b1
  | .ldRN _ _ => .b2n
  | .ldIndHlN _ => .b2n
  | .rlca => .b1
  | .rrca => .b1
  | .rla => .b1
  | .rra => .b1
  | .exAfAf => .b1
  | .addHlRp _ => .b1
  | .djnz _ => .b2e
  | .jr _ => .b2e
  | .jrCc _ _ => .b2e
  | .ldIndNnHl _ => .b3nn
  | .ldHlIndNn _ => .b3nn
  | .ldIndNnA _ => .b3nn
  | .ldAIndNn _ => .b3nn
  | .daa => .b1
  | .cpl => .b1
  | .scf => .b1
  | .ccf => .b1
  | .ldRR _ _ => .b1
  | .ldRIndHl _ => .b1
  | .ldIndHlR _ => .b1
  | .halt => .b1
  | .addAR _ => .b1
  | .addAIndHl => .b1
  | .adcAR _ => .b1
  | .adcAIndHl => .b1
  | .subR _ => .b1
  | .subIndHl => .b1
  | .sbcAR _ => .b1
  | .sbcAIndHl => .b1
  | .andR _ => .b1
  | .andIndHl => .b1
  | .xorR _ => .b1
  | .xorIndHl => .b1
  | .orR _ => .b1
  | .orIndHl => .b1
  | .cpR _ => .b1
  | .cpIndHl => .b1
  | .addAN _ => .b2n
  | .adcAN _ => .b2n
  | .subN _ => .b2n
  | .sbcAN _ => .b2n
  | .andN _ => .b2n
  | .xorN _ => .b2n
  | .orN _ => .b2n
  | .cpN _ => .b2n
  | .retCc _ => .b1
  | .popRp2 _ => .b1
  | .jpCcNn _ _ => .b3nn
  | .jpNn _ => .b3nn
  | .callCcNn _ _ => .b3nn
  | .pushRp2 _ => .b1
  | .rst _ => .b1
  | .ret => .b1
  | .prefixCB => .p1
  | .callNn _ => .b3nn
  | .outIndNA _ => .b2n
  | .inAIndN _ => .b2n
  | .exx => .b1
  | .prefixDD => .p1
  | .prefixFD => .p1
  | .exIndSpHl => .b1
  | .jpIndHl => .b1
  | .exDeHl => .b1
  | .prefixED => .p1
  | .di => .b1
  | .ei => .b1
  | .ldSpHl => .b1
  | .rlcR _ => .cb2
  | .rlcIndHl => .cb2
  | .rrcR _ => .cb2
  | .rrcIndHl => .cb2
  | .rlR _ => .cb2
  | .rlIndHl => .cb2
  | .rrR _ => .cb2
  | .rrIndHl => .cb2
  | .slaR _ => .cb2
  | .slaIndHl => .cb2
  | .sraR _ => .cb2
  | .sraIndHl => .cb2
  | .sllR _ => .cb2
  | .sllIndHl => .cb2
  | .srlR _ => .cb2
  | .srlIndHl => .cb2
  | .bitR _ _ => .cb2
  | .bitIndHl _ => .cb2
  | .resR _ _ => .cb2
  | .resIndHl _ => .cb2
  | .setR _ _ => .cb2
  | .setIndHl _ => .cb2
  | .inRIndC _ => .ed2
  | .inFIndC => .ed2
  | .outIndCR _ => .ed2
  | .outIndC0 => .ed2
  | .sbcHlRp _ => .ed2
  | .adcHlRp _ => .ed2
  | .ldIndNnRp _ _ => .ed4nn
  | .ldRpIndNn _ _ => .ed4nn
  | .neg => .ed2
  | .negAlias _ => .ed2
  | .retn => .ed2
  | .reti => .ed2
  | .retnAlias _ => .ed2
  | .im0 => .ed2
  | .im0Alias _ => .ed2
  | .im1 => .ed2
  | .im1Alias => .ed2
  | .im2 => .ed2
  | .im2Alias => .ed2
  | .ldIA => .ed2
  | .ldRA => .ed2
  | .ldAI => .ed2
  | .ldAR => .ed2
  | .rrd => .ed2
  | .rld => .ed2
  | .ldi => .ed2
  | .cpi => .ed2
  | .ini => .ed2
  | .outi => .ed2
  | .ldd => .ed2
  | .cpd => .ed2
  | .ind => .ed2
  | .outd => .ed2
  | .ldir => .ed2
  | .cpir => .ed2
  | .inir => .ed2
  | .otir => .ed2
  | .lddr => .ed2
  | .cpdr => .ed2
  | .indr => .ed2
  | .otdr => .ed2
  | .addXYRp _ _ => .x2
  | .ldXYNn _ _ => .x4nn
  | .ldIndNnXY _ _ => .x4nn
  | .ldXYIndNn _ _ => .x4nn
  | .incXY _ => .x2
  | .decXY _ => .x2
  | .incXYH _ => .x2
  | .incXYL _ => .x2
  | .decXYH _ => .x2
  | .decXYL _ => .x2
  | .ldXYHN _ _ => .x3n
  | .ldXYLN _ _ => .x3n
  | .incIndXY _ _ => .x3d
  | .decIndXY _ _ => .x3d
  | .ldIndXYN _ _ _ => .x4dn
  | .ldRXYH _ _ => .x2
  | .ldRXYL _ _ => .x2
  | .ldXYHR _ _ => .x2
  | .ldXYLR _ _ => .x2
  | .ldRIndXY _ _ _ => .x3d
  | .ldIndXYR _ _ _ => .x3d
  | .ldIndXYRegH _ _ => .x3d
  | .ldIndXYRegL _ _ => .x3d
  | .addAXYH _ => .x2
  | .addAXYL _ => .x2
  | .addAIndXY _ _ => .x3d
  | .adcAXYH _ => .x2
  | .adcAXYL _ => .x2
  | .adcAIndXY _ _ => .x3d
  | .subXYH _ => .x2
  | .subXYL _ => .x2
  | .subIndXY _ _ => .x3d
  | .sbcAXYH _ => .x2
  | .sbcAXYL _ => .x2
  | .sbcAIndXY _ _ => .x3d
  | .andXYH _ => .x2
  | .andXYL _ => .x2
  | .andIndXY _ _ => .x3d
  | .xorXYH _ => .x2
  | .xorXYL _ => .x2
  | .xorIndXY _ _ => .x3d
  | .orXYH _ => .x2
  | .orXYL _ => .x2
  | .orIndXY _ _ => .x3d
  | .cpXYH _ => .x2
  | .cpXYL _ => .x2
  | .cpIndXY _ _ => .x3d
  | .popXY _ => .x2
  | .pushXY _ => .x2
  | .exIndSpXY _ => .x2
  | .jpIndXY _ => .x2
  | .ldSpXY _ => .x2
  | .prefixXYCB _ => .p2
  | .rlcIndXY _ _ => .xcb4
  | .rlcIndXYR _ _ _ => .xcb4
  | .rrcIndXY _ _ => .xcb4
  | .rrcIndXYR _ _ _ => .xcb4
  | .rlIndXY _ _ => .xcb4
  | .rlIndXYR _ _ _ => .xcb4
  | .rrIndXY _ _ => .xcb4
  | .rrIndXYR _ _ _ => .xcb4
  | .slaIndXY _ _ => .xcb4
  | .slaIndXYR _ _ _ => .xcb4
  | .sraIndXY _ _ => .xcb4
  | .sraIndXYR _ _ _ => .xcb4
  | .sllIndXY _ _ => .xcb4
  | .sllIndXYR _ _ _ => .xcb4
  | .srlIndXY _ _ => .xcb4
  | .srlIndXYR _ _ _ => .xcb4
  | .bitIndXY _ _ _ => .xcb4
  | .bitIndXYAlias _ _ _ _ => .xcb4
  | .resIndXY _ _ _ => .xcb4
  | .resIndXYR _ _ _ _ => .xcb4
  | .setIndXY _ _ _ => .xcb4
  | .setIndXYR _ _ _ _ => .xcb4
  | .unassignedED _ => .ed2
  | .unassignedXY _ _ => .x2

/-- The bytes of an instruction (R134). -/
def Instr.length (i : Instr) : Nat := i.format.fetches.length

/-! ## Decoding a list of bytes -/

/-- Why a list of bytes does not begin with a whole instruction. -/
inductive DecodeReject where
  /-- The list is empty. -/
  | noBytes
  /-- The list ends before the instruction does. -/
  | truncated
deriving DecidableEq, Repr

/-- A list that is a lead-in of the router and nothing more (R131). -/
def bareLeadIn (l : List Byte) : Option Instr :=
  if l = [0xCB] then some .prefixCB
  else if l = [0xED] then some .prefixED
  else if l = [0xDD] then some .prefixDD
  else if l = [0xFD] then some .prefixFD
  else if l = [0xDD, 0xCB] then some (.prefixXYCB .ix)
  else if l = [0xFD, 0xCB] then some (.prefixXYCB .iy)
  else none

/-- The instruction a list of bytes begins with, bytes past its end read as 0. -/
def decodeHead (l : List Byte) : Instr :=
  decodeWindow (l.getD 0 0) (l.getD 1 0) (l.getD 2 0) (l.getD 3 0)

/-- The instruction a list of bytes begins with and the rest of the list, or the reason there is none. -/
def decode (l : List Byte) : Except DecodeReject (Instr × List Byte) :=
  if l = [] then .error .noBytes
  else
    match bareLeadIn l with
    | some i => .ok (i, [])
    | none =>
      let i := decodeHead l
      if i.length ≤ l.length then .ok (i, l.drop i.length) else .error .truncated

/-- The bytes of a number, lowest first: the order instruction bytes stand in memory. -/
def bytesOf : Nat → Nat → List Byte
  | 0, _ => []
  | n + 1, w => BitVec.ofNat 8 w :: bytesOf n (w / 256)

/-- The longest instruction, in bytes (R132). -/
def longestInstr : Nat := 4

/-- The bits `w` of `nbits` bits, every bit above them 0, as the bytes of the longest instruction. -/
def tableBytes (nbits w : Nat) : List Byte := bytesOf longestInstr (w % 2 ^ nbits)

/-- The instruction the decoder reads from the bits `w`, numbered as spec/opcode_table.json numbers them: bits
7..0 are the first byte, bits above `nbits` are 0. The table's patterns are of the dispatched byte alone; a row
of a table behind a lead-in byte is read here as the core would read that byte first (log entry 15). -/
def decodeTableWord (nbits w : Nat) : Option Instr := some (decodeHead (tableBytes nbits w))

/-! ## The encoder -/

/-- A field of an opcode byte, in place. -/
def field {n : Nat} (v : BitVec n) (at_ : Nat) : Byte := v.setWidth 8 <<< at_

/-- The bytes of an instruction (R125 to R146), lead-in bytes first. -/
def encode : Instr → List Byte
  | .nop => [0x00]
  | .ldRpNn p nn => [0x01 ||| field p.code 4, lo nn, hi nn]
  | .ldIndBcA => [0x02]
  | .ldIndDeA => [0x12]
  | .ldAIndBc => [0x0A]
  | .ldAIndDe => [0x1A]
  | .incRp p => [0x03 ||| field p.code 4]
  | .decRp p => [0x0B ||| field p.code 4]
  | .incR r => [0x04 ||| field r.code 3]
  | .incIndHl => [0x34]
  | .decR r => [0x05 ||| field r.code 3]
  | .decIndHl => [0x35]
  | .ldRN r n => [0x06 ||| field r.code 3, n]
  | .ldIndHlN n => [0x36, n]
  | .rlca => [0x07]
  | .rrca => [0x0F]
  | .rla => [0x17]
  | .rra => [0x1F]
  | .exAfAf => [0x08]
  | .addHlRp p => [0x09 ||| field p.code 4]
  | .djnz e => [0x10, e]
  | .jr e => [0x18, e]
  | .jrCc cc e => [0x20 ||| field cc.code 3, e]
  | .ldIndNnHl nn => [0x22, lo nn, hi nn]
  | .ldHlIndNn nn => [0x2A, lo nn, hi nn]
  | .ldIndNnA nn => [0x32, lo nn, hi nn]
  | .ldAIndNn nn => [0x3A, lo nn, hi nn]
  | .daa => [0x27]
  | .cpl => [0x2F]
  | .scf => [0x37]
  | .ccf => [0x3F]
  | .ldRR dst src => [0x40 ||| field dst.code 3 ||| field src.code 0]
  | .ldRIndHl r => [0x46 ||| field r.code 3]
  | .ldIndHlR r => [0x70 ||| field r.code 0]
  | .halt => [0x76]
  | .addAR r => [0x80 ||| field r.code 0]
  | .addAIndHl => [0x86]
  | .adcAR r => [0x88 ||| field r.code 0]
  | .adcAIndHl => [0x8E]
  | .subR r => [0x90 ||| field r.code 0]
  | .subIndHl => [0x96]
  | .sbcAR r => [0x98 ||| field r.code 0]
  | .sbcAIndHl => [0x9E]
  | .andR r => [0xA0 ||| field r.code 0]
  | .andIndHl => [0xA6]
  | .xorR r => [0xA8 ||| field r.code 0]
  | .xorIndHl => [0xAE]
  | .orR r => [0xB0 ||| field r.code 0]
  | .orIndHl => [0xB6]
  | .cpR r => [0xB8 ||| field r.code 0]
  | .cpIndHl => [0xBE]
  | .addAN n => [0xC6, n]
  | .adcAN n => [0xCE, n]
  | .subN n => [0xD6, n]
  | .sbcAN n => [0xDE, n]
  | .andN n => [0xE6, n]
  | .xorN n => [0xEE, n]
  | .orN n => [0xF6, n]
  | .cpN n => [0xFE, n]
  | .retCc cc => [0xC0 ||| field cc.code 3]
  | .popRp2 p => [0xC1 ||| field p.code 4]
  | .jpCcNn cc nn => [0xC2 ||| field cc.code 3, lo nn, hi nn]
  | .jpNn nn => [0xC3, lo nn, hi nn]
  | .callCcNn cc nn => [0xC4 ||| field cc.code 3, lo nn, hi nn]
  | .pushRp2 p => [0xC5 ||| field p.code 4]
  | .rst t => [0xC7 ||| field t 3]
  | .ret => [0xC9]
  | .prefixCB => [0xCB]
  | .callNn nn => [0xCD, lo nn, hi nn]
  | .outIndNA n => [0xD3, n]
  | .inAIndN n => [0xDB, n]
  | .exx => [0xD9]
  | .prefixDD => [0xDD]
  | .prefixFD => [0xFD]
  | .exIndSpHl => [0xE3]
  | .jpIndHl => [0xE9]
  | .exDeHl => [0xEB]
  | .prefixED => [0xED]
  | .di => [0xF3]
  | .ei => [0xFB]
  | .ldSpHl => [0xF9]
  | .rlcR r => [0xCB, 0x00 ||| field r.code 0]
  | .rlcIndHl => [0xCB, 0x06]
  | .rrcR r => [0xCB, 0x08 ||| field r.code 0]
  | .rrcIndHl => [0xCB, 0x0E]
  | .rlR r => [0xCB, 0x10 ||| field r.code 0]
  | .rlIndHl => [0xCB, 0x16]
  | .rrR r => [0xCB, 0x18 ||| field r.code 0]
  | .rrIndHl => [0xCB, 0x1E]
  | .slaR r => [0xCB, 0x20 ||| field r.code 0]
  | .slaIndHl => [0xCB, 0x26]
  | .sraR r => [0xCB, 0x28 ||| field r.code 0]
  | .sraIndHl => [0xCB, 0x2E]
  | .sllR r => [0xCB, 0x30 ||| field r.code 0]
  | .sllIndHl => [0xCB, 0x36]
  | .srlR r => [0xCB, 0x38 ||| field r.code 0]
  | .srlIndHl => [0xCB, 0x3E]
  | .bitR b r => [0xCB, 0x40 ||| field b 3 ||| field r.code 0]
  | .bitIndHl b => [0xCB, 0x46 ||| field b 3]
  | .resR b r => [0xCB, 0x80 ||| field b 3 ||| field r.code 0]
  | .resIndHl b => [0xCB, 0x86 ||| field b 3]
  | .setR b r => [0xCB, 0xC0 ||| field b 3 ||| field r.code 0]
  | .setIndHl b => [0xCB, 0xC6 ||| field b 3]
  | .inRIndC r => [0xED, 0x40 ||| field r.code 3]
  | .inFIndC => [0xED, 0x70]
  | .outIndCR r => [0xED, 0x41 ||| field r.code 3]
  | .outIndC0 => [0xED, 0x71]
  | .sbcHlRp p => [0xED, 0x42 ||| field p.code 4]
  | .adcHlRp p => [0xED, 0x4A ||| field p.code 4]
  | .ldIndNnRp nn p => [0xED, 0x43 ||| field p.code 4, lo nn, hi nn]
  | .ldRpIndNn p nn => [0xED, 0x4B ||| field p.code 4, lo nn, hi nn]
  | .neg => [0xED, 0x44]
  | .negAlias y => [0xED, 0x44 ||| field y 3]
  | .retn => [0xED, 0x45]
  | .reti => [0xED, 0x4D]
  | .retnAlias y => [0xED, 0x45 ||| field y 3]
  | .im0 => [0xED, 0x46]
  | .im0Alias y => [0xED, 0x46 ||| field y 3]
  | .im1 => [0xED, 0x56]
  | .im1Alias => [0xED, 0x76]
  | .im2 => [0xED, 0x5E]
  | .im2Alias => [0xED, 0x7E]
  | .ldIA => [0xED, 0x47]
  | .ldRA => [0xED, 0x4F]
  | .ldAI => [0xED, 0x57]
  | .ldAR => [0xED, 0x5F]
  | .rrd => [0xED, 0x67]
  | .rld => [0xED, 0x6F]
  | .ldi => [0xED, 0xA0]
  | .cpi => [0xED, 0xA1]
  | .ini => [0xED, 0xA2]
  | .outi => [0xED, 0xA3]
  | .ldd => [0xED, 0xA8]
  | .cpd => [0xED, 0xA9]
  | .ind => [0xED, 0xAA]
  | .outd => [0xED, 0xAB]
  | .ldir => [0xED, 0xB0]
  | .cpir => [0xED, 0xB1]
  | .inir => [0xED, 0xB2]
  | .otir => [0xED, 0xB3]
  | .lddr => [0xED, 0xB8]
  | .cpdr => [0xED, 0xB9]
  | .indr => [0xED, 0xBA]
  | .otdr => [0xED, 0xBB]
  | .addXYRp x p => [x.leadIn, 0x09 ||| field p.code 4]
  | .ldXYNn x nn => [x.leadIn, 0x21, lo nn, hi nn]
  | .ldIndNnXY nn x => [x.leadIn, 0x22, lo nn, hi nn]
  | .ldXYIndNn x nn => [x.leadIn, 0x2A, lo nn, hi nn]
  | .incXY x => [x.leadIn, 0x23]
  | .decXY x => [x.leadIn, 0x2B]
  | .incXYH x => [x.leadIn, 0x24]
  | .incXYL x => [x.leadIn, 0x2C]
  | .decXYH x => [x.leadIn, 0x25]
  | .decXYL x => [x.leadIn, 0x2D]
  | .ldXYHN x n => [x.leadIn, 0x26, n]
  | .ldXYLN x n => [x.leadIn, 0x2E, n]
  | .incIndXY x d => [x.leadIn, 0x34, d]
  | .decIndXY x d => [x.leadIn, 0x35, d]
  | .ldIndXYN x d n => [x.leadIn, 0x36, d, n]
  | .ldRXYH r x => [x.leadIn, 0x44 ||| field r.code 3]
  | .ldRXYL r x => [x.leadIn, 0x45 ||| field r.code 3]
  | .ldXYHR x src => [x.leadIn, 0x60 ||| field src.code 0]
  | .ldXYLR x src => [x.leadIn, 0x68 ||| field src.code 0]
  | .ldRIndXY r x d => [x.leadIn, 0x46 ||| field r.code 3, d]
  | .ldIndXYR x d r => [x.leadIn, 0x70 ||| field r.code 0, d]
  | .ldIndXYRegH x d => [x.leadIn, 0x74, d]
  | .ldIndXYRegL x d => [x.leadIn, 0x75, d]
  | .addAXYH x => [x.leadIn, 0x84]
  | .addAXYL x => [x.leadIn, 0x85]
  | .addAIndXY x d => [x.leadIn, 0x86, d]
  | .adcAXYH x => [x.leadIn, 0x8C]
  | .adcAXYL x => [x.leadIn, 0x8D]
  | .adcAIndXY x d => [x.leadIn, 0x8E, d]
  | .subXYH x => [x.leadIn, 0x94]
  | .subXYL x => [x.leadIn, 0x95]
  | .subIndXY x d => [x.leadIn, 0x96, d]
  | .sbcAXYH x => [x.leadIn, 0x9C]
  | .sbcAXYL x => [x.leadIn, 0x9D]
  | .sbcAIndXY x d => [x.leadIn, 0x9E, d]
  | .andXYH x => [x.leadIn, 0xA4]
  | .andXYL x => [x.leadIn, 0xA5]
  | .andIndXY x d => [x.leadIn, 0xA6, d]
  | .xorXYH x => [x.leadIn, 0xAC]
  | .xorXYL x => [x.leadIn, 0xAD]
  | .xorIndXY x d => [x.leadIn, 0xAE, d]
  | .orXYH x => [x.leadIn, 0xB4]
  | .orXYL x => [x.leadIn, 0xB5]
  | .orIndXY x d => [x.leadIn, 0xB6, d]
  | .cpXYH x => [x.leadIn, 0xBC]
  | .cpXYL x => [x.leadIn, 0xBD]
  | .cpIndXY x d => [x.leadIn, 0xBE, d]
  | .popXY x => [x.leadIn, 0xE1]
  | .pushXY x => [x.leadIn, 0xE5]
  | .exIndSpXY x => [x.leadIn, 0xE3]
  | .jpIndXY x => [x.leadIn, 0xE9]
  | .ldSpXY x => [x.leadIn, 0xF9]
  | .prefixXYCB x => [x.leadIn, 0xCB]
  | .rlcIndXY x d => [x.leadIn, 0xCB, d, 0x06]
  | .rlcIndXYR x d r => [x.leadIn, 0xCB, d, 0x00 ||| field r.code 0]
  | .rrcIndXY x d => [x.leadIn, 0xCB, d, 0x0E]
  | .rrcIndXYR x d r => [x.leadIn, 0xCB, d, 0x08 ||| field r.code 0]
  | .rlIndXY x d => [x.leadIn, 0xCB, d, 0x16]
  | .rlIndXYR x d r => [x.leadIn, 0xCB, d, 0x10 ||| field r.code 0]
  | .rrIndXY x d => [x.leadIn, 0xCB, d, 0x1E]
  | .rrIndXYR x d r => [x.leadIn, 0xCB, d, 0x18 ||| field r.code 0]
  | .slaIndXY x d => [x.leadIn, 0xCB, d, 0x26]
  | .slaIndXYR x d r => [x.leadIn, 0xCB, d, 0x20 ||| field r.code 0]
  | .sraIndXY x d => [x.leadIn, 0xCB, d, 0x2E]
  | .sraIndXYR x d r => [x.leadIn, 0xCB, d, 0x28 ||| field r.code 0]
  | .sllIndXY x d => [x.leadIn, 0xCB, d, 0x36]
  | .sllIndXYR x d r => [x.leadIn, 0xCB, d, 0x30 ||| field r.code 0]
  | .srlIndXY x d => [x.leadIn, 0xCB, d, 0x3E]
  | .srlIndXYR x d r => [x.leadIn, 0xCB, d, 0x38 ||| field r.code 0]
  | .bitIndXY b x d => [x.leadIn, 0xCB, d, 0x46 ||| field b 3]
  | .bitIndXYAlias b x d r => [x.leadIn, 0xCB, d, 0x40 ||| field b 3 ||| field r.code 0]
  | .resIndXY b x d => [x.leadIn, 0xCB, d, 0x86 ||| field b 3]
  | .resIndXYR b x d r => [x.leadIn, 0xCB, d, 0x80 ||| field b 3 ||| field r.code 0]
  | .setIndXY b x d => [x.leadIn, 0xCB, d, 0xC6 ||| field b 3]
  | .setIndXYR b x d r => [x.leadIn, 0xCB, d, 0xC0 ||| field b 3 ||| field r.code 0]
  | .unassignedED b => [0xED, b]
  | .unassignedXY x b => [x.leadIn, b]

end Sys2Proof
end

