-- ==== Sys2Proof/Machine/Fetch.lean ====
section
/-!
DEFINITION. The fetch primitives (30_encoding.md R120 to R124) and reading the instruction at PC.

The bytes of an instruction are fetched one by one, each at the PC of its moment. No instruction writes memory
before all its own bytes are fetched (70_reset_and_hazards.md R507), so the instruction is decoded from the bytes
that stand at PC and the fetches are then charged.
-/

namespace Sys2Proof.Machine

/-- `PC <- PC +16 1` after a fetched byte (R36). -/
def State.bumpPc (s : State) : State := s.setPc (s.regs.pc + 1)

/-- One fetch: `FetchOp` charges 4 and refreshes (R121), an operand fetch charges 3 and does not (R122, R124). -/
def State.fetchByte (s : State) (k : FetchKind) : State :=
  match k with
  | .op => (((s.tick 4).log (.memRead s.regs.pc (s.byteAt s.regs.pc))).bumpPc).bumpR
  | .operand => ((s.tick 3).log (.memRead s.regs.pc (s.byteAt s.regs.pc))).bumpPc

/-- Fetches in order. -/
def State.fetchBytes : State → List FetchKind → State
  | s, [] => s
  | s, k :: ks => (s.fetchByte k).fetchBytes ks

/-- The four bytes at PC, as many as the longest instruction has (R132); the address wraps. -/
def State.bytesAtPc (s : State) : List Byte :=
  [s.byteAt s.regs.pc, s.byteAt (s.regs.pc + 1), s.byteAt (s.regs.pc + 2), s.byteAt (s.regs.pc + 3)]

/-- The instruction that begins with the bytes `pre`, already fetched, and goes on at PC (R131). -/
def State.decodeAfter (s : State) (pre : List Byte) : Instr := decodeHead (pre ++ s.bytesAtPc)

/-- The fetches of the bytes of `i` after the first `pre.length` (R131, R132). -/
def State.fetchAfter (s : State) (pre : List Byte) (i : Instr) : State :=
  s.fetchBytes (i.format.fetches.drop pre.length)

/-- One `step()` (R120) with `run` the meaning of an instruction: the instruction at PC is fetched whole, then
run. A step clears `eiLast` first; EI sets it again (R461). -/
def State.stepWith (run : Instr → State → Result) (s : State) : Result :=
  let s0 := { s with eiLast := false }
  let i := s0.decodeAfter []
  run i (s0.fetchAfter [] i)

end Sys2Proof.Machine
end

