-- ==== Sys2Proof/Machine/InOut.lean ====
section
/-!
DEFINITION. Input and output (49_io.md R430 to R443).
-/

namespace Sys2Proof.Machine

/-! ## Shared shapes -/

/-- The bus and MEMPTR effect of a read of the port BC (R432, R433). -/
def State.inputC (s : State) : State := (s.portIn s.regs.bc).setMemptr (s.regs.bc + 1)

/-- A write of `v` to the port BC (R434, R435). -/
def State.outputC (s : State) (v : Byte) : State := (s.portOut s.regs.bc v).setMemptr (s.regs.bc + 1)

/-- One step of the low port byte: `C +8 1` or `C -8 1` (R436, R437). -/
def Direction.moveByte (d : Direction) (c : Byte) : Byte :=
  match d with
  | .up => c + 1
  | .down => c - 1

/-- The body of INI and IND (R436, R437): the port is BC before B is counted down; extra 1. -/
def State.blockIn (s : State) (d : Direction) : State :=
  let v := s.portByte s.regs.bc
  let s1 := (s.portIn s.regs.bc).busWrite s.regs.hl v
  let b := s.regB - 1
  { s1 with regs := { s1.regs with
      bc := word b s.regC, hl := d.move s.regs.hl, memptr := d.move s.regs.bc
      af := word s.regA (blockIoFlags v (d.moveByte s.regC) b) } }.tick 1

/-- The body of OUTI and OUTD (R440, R441): the port is BC after B is counted down, the addend L after HL has
moved; extra 1. -/
def State.blockOut (s : State) (d : Direction) : State :=
  let v := s.byteAt s.regs.hl
  let b := s.regB - 1
  let bc := word b s.regC
  let hl := d.move s.regs.hl
  let s1 := (s.busRead s.regs.hl).portOut bc v
  { s1 with regs := { s1.regs with
      bc := bc, hl := hl, memptr := d.move bc
      af := word s.regA (blockIoFlags v (lo hl) b) } }.tick 1

/-- INIR, INDR, OTIR and OTDR: repeat while B is not 0 (R438, R439, R442, R443). -/
def State.repeatIo (t : State) : State := if t.regB != 0 then t.rewind else t

/-! ## Meanings -/

/-- `IN A,(n)` (R430): the port is `{A, n}`, with the A before the read. -/
def execInAIndN (n : Byte) (s : State) : Result :=
  let port := word s.regA n
  .next (((s.portIn port).setA (s.portByte port)).setMemptr (port + 1))

/-- `OUT (n),A` (R431): no carry out of MEMPTR's low byte. -/
def execOutIndNA (n : Byte) (s : State) : Result :=
  .next ((s.portOut (word s.regA n) s.regA).setMemptr (word s.regA (n + 1)))

/-- `IN r,(C)` (R432). -/
def execInRIndC (r : Reg8) (s : State) : Result :=
  let v := s.portByte s.regs.bc
  .next ((s.inputC.setF (inputFlags v s.regF)).setReg8 r v)

/-- `IN F,(C)` (R433), undocumented: the flags only. -/
def execInFIndC (s : State) : Result :=
  s.ifAdmitted (.next (s.inputC.setF (inputFlags (s.portByte s.regs.bc) s.regF)))

/-- `OUT (C),r` (R434). -/
def execOutIndCR (r : Reg8) (s : State) : Result := .next (s.outputC (s.reg8 r))

/-- `OUT (C),0` (R435), undocumented. -/
def execOutIndC0 (s : State) : Result := s.ifAdmitted (.next (s.outputC 0x00))

/-- `INI` (R436). -/
def execIni (s : State) : Result := .next (s.blockIn .up)

/-- `IND` (R437). -/
def execInd (s : State) : Result := .next (s.blockIn .down)

/-- `INIR` (R438), one iteration. -/
def execInir (s : State) : Result := .next (s.blockIn .up).repeatIo

/-- `INDR` (R439), one iteration. -/
def execIndr (s : State) : Result := .next (s.blockIn .down).repeatIo

/-- `OUTI` (R440). -/
def execOuti (s : State) : Result := .next (s.blockOut .up)

/-- `OUTD` (R441). -/
def execOutd (s : State) : Result := .next (s.blockOut .down)

/-- `OTIR` (R442), one iteration. -/
def execOtir (s : State) : Result := .next (s.blockOut .up).repeatIo

/-- `OTDR` (R443), one iteration. -/
def execOtdr (s : State) : Result := .next (s.blockOut .down).repeatIo

end Sys2Proof.Machine
end

