-- ==== Sys2Proof/Machine/Jump.lean ====
section
/-!
DEFINITION. Jumps, calls, returns and restarts (48_jump_call_return.md R400 to R416). PC is already past the
instruction's bytes, so it is the return address and the base of a relative jump.
-/

namespace Sys2Proof.Machine

/-! ## Shared shapes -/

/-- A jump that sets MEMPTR to its target (R400, R403). -/
def State.jumpTo (s : State) (target : Word) : State := (s.setPc target).setMemptr target

/-- The target of a relative jump: `PC + sext_16(e)` (R129). -/
def State.relative (s : State) (e : Byte) : Word := s.regs.pc + sext16 e

/-- The target of `RST t`: `ttt * 8` (R416). -/
def restartTarget (t : BitVec 3) : Word := t.setWidth 16 * 8

/-! ## Meanings -/

/-- `JP nn` (R400). -/
def execJpNn (nn : Word) (s : State) : Result := .next (s.jumpTo nn)

/-- `JP cc,nn` (R401): MEMPTR is nn, taken or not. -/
def execJpCcNn (cc : Cond) (nn : Word) (s : State) : Result :=
  .next (if cc.holds s.regF then s.jumpTo nn else s.setMemptr nn)

/-- `JP (HL)` (R402). -/
def execJpIndHl (s : State) : Result := .next (s.setPc s.regs.hl)

/-- `JP (XY)` (R406). -/
def execJpIndXY (x : Index) (s : State) : Result := .next (s.setPc (s.index x))

/-- `JR e` (R403), extra 5. -/
def execJr (e : Byte) (s : State) : Result := .next ((s.jumpTo (s.relative e)).tick 5)

/-- `JR cc,e` (R404), extra 5 if taken. -/
def execJrCc (cc : JrCond) (e : Byte) (s : State) : Result :=
  .next (if cc.toCond.holds s.regF then (s.jumpTo (s.relative e)).tick 5 else s)

/-- `DJNZ e` (R405), extra 6 if taken, else 1. -/
def execDjnz (e : Byte) (s : State) : Result :=
  let t := s.setReg8 .b (s.regB - 1)
  .next (if t.regB != 0 then (t.jumpTo (t.relative e)).tick 6 else t.tick 1)

/-- `CALL nn` (R408). -/
def execCallNn (nn : Word) (s : State) : Result := .next (s.callTo nn)

/-- `CALL cc,nn` (R409): MEMPTR is nn, taken or not. -/
def execCallCcNn (cc : Cond) (nn : Word) (s : State) : Result :=
  .next (if cc.holds s.regF then s.callTo nn else s.setMemptr nn)

/-- `RET` (R411). -/
def execRet (s : State) : Result := .next s.returnPop

/-- `RET cc` (R412), extra 1 taken or not. -/
def execRetCc (cc : Cond) (s : State) : Result :=
  .next ((if cc.holds s.regF then s.returnPop else s).tick 1)

/-- `RETI` (R413). -/
def execReti (s : State) : Result := .next s.returnFromInterrupt

/-- `RETN` (R414). -/
def execRetn (s : State) : Result := .next s.returnFromInterrupt

/-- The mirrors of `RETN` (R414), undocumented; the encoding's field has no effect. -/
def execRetnAlias (_y : BitVec 3) (s : State) : Result := s.ifAdmitted (.next s.returnFromInterrupt)

/-- `RST t` (R416). -/
def execRst (t : BitVec 3) (s : State) : Result := .next (s.callTo (restartTarget t))

end Sys2Proof.Machine
end

