-- ==== Sys2Proof/Machine/Load16.lean ====
section
/-!
DEFINITION. The 16-bit loads and the stack instructions (42_load16_stack.md R230 to R243).
-/

namespace Sys2Proof.Machine

/-! ## Shared shapes -/

/-- The bus reads and the MEMPTR of a 16-bit load from `nn` (R232, R234, R237). -/
def State.loadAt16 (s : State) (nn : Word) : State := (s.busRead16 nn).setMemptr (nn + 1)

/-- A 16-bit store at `nn`, low byte first, MEMPTR `nn + 1` (R233, R235, R238). -/
def State.storeAt16 (s : State) (nn w : Word) : State := (s.busWrite16 nn w).setMemptr (nn + 1)

/-! ## Meanings -/

/-- `LD rp,nn` (R230). -/
def execLdRpNn (p : Pair) (nn : Word) (s : State) : Result := .next (s.setPair p nn)

/-- `LD XY,nn` (R231). -/
def execLdXYNn (x : Index) (nn : Word) (s : State) : Result := .next (s.setIndex x nn)

/-- `LD HL,(nn)` (R232). -/
def execLdHlIndNn (nn : Word) (s : State) : Result := .next ((s.loadAt16 nn).setPair .hl (s.wordAt nn))

/-- `LD (nn),HL` (R233). -/
def execLdIndNnHl (nn : Word) (s : State) : Result := .next (s.storeAt16 nn s.regs.hl)

/-- `LD rp,(nn)`, the ED form (R234). -/
def execLdRpIndNn (p : Pair) (nn : Word) (s : State) : Result := .next ((s.loadAt16 nn).setPair p (s.wordAt nn))

/-- `LD (nn),rp`, the ED form (R235). -/
def execLdIndNnRp (nn : Word) (p : Pair) (s : State) : Result := .next (s.storeAt16 nn (s.pair p))

/-- `LD SP,HL` (R236), extra 2. -/
def execLdSpHl (s : State) : Result := .next ((s.setSp s.regs.hl).tick 2)

/-- `LD XY,(nn)` (R237). -/
def execLdXYIndNn (x : Index) (nn : Word) (s : State) : Result :=
  .next ((s.loadAt16 nn).setIndex x (s.wordAt nn))

/-- `LD (nn),XY` (R238). -/
def execLdIndNnXY (nn : Word) (x : Index) (s : State) : Result := .next (s.storeAt16 nn (s.index x))

/-- `LD SP,XY` (R239), extra 2. -/
def execLdSpXY (x : Index) (s : State) : Result := .next ((s.setSp (s.index x)).tick 2)

/-- `PUSH rp2` (R240), extra 1. -/
def execPushRp2 (p : StackPair) (s : State) : Result := .next ((s.push16 (s.stackPair p)).tick 1)

/-- `POP rp2` (R241). -/
def execPopRp2 (p : StackPair) (s : State) : Result := .next (s.pop16.setStackPair p s.stackTop)

/-- `PUSH XY` (R242), extra 1. -/
def execPushXY (x : Index) (s : State) : Result := .next ((s.push16 (s.index x)).tick 1)

/-- `POP XY` (R243). -/
def execPopXY (x : Index) (s : State) : Result := .next (s.pop16.setIndex x s.stackTop)

end Sys2Proof.Machine
end

