-- ==== Sys2Proof/Machine/Load8.lean ====
section
/-!
DEFINITION. The 8-bit loads (41_load8.md R200 to R214). A meaning runs in the state after the instruction's own
bytes have been fetched (R36): PC is past them and the fetches are charged.
-/

namespace Sys2Proof.Machine

/-! ## Shared shapes -/

/-- `reg8 <- MemRead(a, 1)`. -/
def State.loadReg8 (s : State) (r : Reg8) (a : Word) : State := (s.busRead a).setReg8 r (s.byteAt a)

/-- `A <- MemRead(a, 1); MEMPTR <- a + 1` (R210, R212). -/
def State.loadAAt (s : State) (a : Word) : State := ((s.busRead a).setA (s.byteAt a)).setMemptr (a + 1)

/-- `MemWrite(a, 1, A); MEMPTR <- {A, lo(a + 1)}` (R211, R213). -/
def State.storeAAt (s : State) (a : Word) : State := (s.busWrite a s.regA).setMemptr (word s.regA (lo (a + 1)))

/-- `LD r,(XY+d)` with its extra 5 units (R203). -/
def State.loadIndexed (s : State) (r : Reg8) (x : Index) (d : Byte) : State :=
  ((s.latchEa x d).loadReg8 r (s.ea x d)).tick 5

/-- `LD (XY+d),v` with `extra` units (R206, R214). -/
def State.storeIndexed (s : State) (x : Index) (d v : Byte) (extra : Nat) : State :=
  ((s.latchEa x d).busWrite (s.ea x d) v).tick extra

/-! ## Meanings -/

/-- `LD r,r'` (R200). -/
def execLdRR (dst src : Reg8) (s : State) : Result := .next (s.setReg8 dst (s.reg8 src))

/-- `LD r,n` (R201). -/
def execLdRN (r : Reg8) (n : Byte) (s : State) : Result := .next (s.setReg8 r n)

/-- `LD r,(HL)` (R202): the address is HL before the load. -/
def execLdRIndHl (r : Reg8) (s : State) : Result := .next (s.loadReg8 r s.regs.hl)

/-- `LD r,(XY+d)` (R203). -/
def execLdRIndXY (r : Reg8) (x : Index) (d : Byte) (s : State) : Result := .next (s.loadIndexed r x d)

/-- `LD (HL),r` (R204). -/
def execLdIndHlR (r : Reg8) (s : State) : Result := .next (s.busWrite s.regs.hl (s.reg8 r))

/-- `LD (HL),n` (R205). -/
def execLdIndHlN (n : Byte) (s : State) : Result := .next (s.busWrite s.regs.hl n)

/-- `LD (XY+d),n` (R206). -/
def execLdIndXYN (x : Index) (d n : Byte) (s : State) : Result := .next (s.storeIndexed x d n 2)

/-- `LD XYH,n` (R207), undocumented. -/
def execLdXYHN (x : Index) (n : Byte) (s : State) : Result := s.ifAdmitted (.next (s.setIndexHigh x n))

/-- `LD XYL,n` (R207), undocumented. -/
def execLdXYLN (x : Index) (n : Byte) (s : State) : Result := s.ifAdmitted (.next (s.setIndexLow x n))

/-- `LD r,XYH` (R208), undocumented. -/
def execLdRXYH (r : Reg8) (x : Index) (s : State) : Result := s.ifAdmitted (.next (s.setReg8 r (s.indexHigh x)))

/-- `LD r,XYL` (R208), undocumented. -/
def execLdRXYL (r : Reg8) (x : Index) (s : State) : Result := s.ifAdmitted (.next (s.setReg8 r (s.indexLow x)))

/-- `LD XYH,r` (R209), undocumented. -/
def execLdXYHR (x : Index) (src : IndexSrc) (s : State) : Result :=
  s.ifAdmitted (.next (s.setIndexHigh x (s.indexSrc x src)))

/-- `LD XYL,r` (R209), undocumented. -/
def execLdXYLR (x : Index) (src : IndexSrc) (s : State) : Result :=
  s.ifAdmitted (.next (s.setIndexLow x (s.indexSrc x src)))

/-- `LD A,(BC)` (R210). -/
def execLdAIndBc (s : State) : Result := .next (s.loadAAt s.regs.bc)

/-- `LD A,(DE)` (R210). -/
def execLdAIndDe (s : State) : Result := .next (s.loadAAt s.regs.de)

/-- `LD (BC),A` (R211). -/
def execLdIndBcA (s : State) : Result := .next (s.storeAAt s.regs.bc)

/-- `LD (DE),A` (R211). -/
def execLdIndDeA (s : State) : Result := .next (s.storeAAt s.regs.de)

/-- `LD A,(nn)` (R212). -/
def execLdAIndNn (nn : Word) (s : State) : Result := .next (s.loadAAt nn)

/-- `LD (nn),A` (R213). -/
def execLdIndNnA (nn : Word) (s : State) : Result := .next (s.storeAAt nn)

/-- `LD (XY+d),r` (R214), r in B, C, D, E, A. -/
def execLdIndXYR (x : Index) (d : Byte) (r : Reg8) (s : State) : Result := .next (s.storeIndexed x d (s.reg8 r) 5)

/-- `LD (XY+d),H` (R214): H itself, not XYH. -/
def execLdIndXYRegH (x : Index) (d : Byte) (s : State) : Result := .next (s.storeIndexed x d (s.reg8 .h) 5)

/-- `LD (XY+d),L` (R214): L itself, not XYL. -/
def execLdIndXYRegL (x : Index) (d : Byte) (s : State) : Result := .next (s.storeIndexed x d (s.reg8 .l) 5)

end Sys2Proof.Machine
end

