-- ==== Sys2Proof/Machine/Rotate.lean ====
section
/-!
DEFINITION. Rotates, shifts and bit operations (47_rotate_shift_bit.md R370 to R397).

The operand forms of R374 are shared shapes over the rotate function `op`, which takes the byte and the old
carry. The indexed forms latch the effective address that the router computes (R131).
-/

namespace Sys2Proof.Machine

/-! ## Shared shapes -/

/-- The accumulator rotates: A replaced, the flags of R370 to R373, `out` the bit shifted out. -/
def State.rotateA (s : State) (res : Byte) (out : Bool) : State := s.setAF (res, accRotateFlags res s.regF out)

/-- `op r` (R374). -/
def State.rotReg (s : State) (op : Byte → Bool → Byte × Byte) (r : Reg8) : State :=
  let p := op (s.reg8 r) s.carry
  (s.setF p.2).setReg8 r p.1

/-- `op` on the byte at `a`: read, then write (R374). -/
def State.rotMem (s : State) (op : Byte → Bool → Byte × Byte) (a : Word) : State :=
  let p := op (s.byteAt a) s.carry
  ((s.busRead a).setF p.2).busWrite a p.1

/-- `op (HL)` with its extra unit (R374). -/
def State.rotIndHl (s : State) (op : Byte → Bool → Byte × Byte) : State := (s.rotMem op s.regs.hl).tick 1

/-- `op (XY+d)` with its extra 3 units (R374). -/
def State.rotIndexed (s : State) (op : Byte → Bool → Byte × Byte) (x : Index) (d : Byte) : State :=
  ((s.latchEa x d).rotMem op (s.ea x d)).tick 3

/-- `op (XY+d),r`: as `op (XY+d)`, then the result copied to the register (R374). -/
def State.rotIndexedCopy (s : State) (op : Byte → Bool → Byte × Byte) (x : Index) (d : Byte) (r : Reg8) : State :=
  (s.rotIndexed op x d).setReg8 r (op (s.byteAt (s.ea x d)) s.carry).1

/-- Bit `b` cleared (R389). -/
def clearBit (b : BitVec 3) (v : Byte) : Byte := v &&& ~~~(bitMask b)

/-- Bit `b` set (R391). -/
def raiseBit (b : BitVec 3) (v : Byte) : Byte := v ||| bitMask b

/-- The byte at `a` replaced by `v`: read, then write (R390, R392). -/
def State.rmw (s : State) (a : Word) (v : Byte) : State := (s.busRead a).busWrite a v

/-- The indexed byte replaced by `v`, extra 3 (R396, R397). -/
def State.rmwIndexed (s : State) (x : Index) (d v : Byte) : State :=
  ((s.latchEa x d).rmw (s.ea x d) v).tick 3

/-- `BIT b,(XY+d)`: X5 and X3 from the latched address, extra 3 (R395). -/
def State.bitIndexed (s : State) (b : BitVec 3) (x : Index) (d : Byte) : State :=
  (((s.latchEa x d).busRead (s.ea x d)).setF
    (bitFlags b (s.byteAt (s.ea x d)) (hi (s.ea x d)) s.regF)).tick 3

/-- `BIT b,(HL)` with X5 and X3 from the byte `x35` (R388). -/
def State.bitMem (s : State) (b : BitVec 3) (x35 : Byte) : State :=
  (s.busRead s.regs.hl).setF (bitFlags b (s.byteAt s.regs.hl) x35 s.regF)

/-- RLD and RRD: `m` to (HL), `a` to A, MEMPTR at HL + 1, extra 4 (R393, R394). -/
def State.nibbles (s : State) (m a : Byte) : State :=
  ((((s.busRead s.regs.hl).busWrite s.regs.hl m).setAF (a, inputFlags a s.regF)).setMemptr (s.regs.hl + 1)).tick 4

/-! ## Meanings: accumulator rotates -/

/-- `RLCA` (R370). -/
def execRlca (s : State) : Result := .next (s.rotateA (rlc8 s.regA s.carry).1 (s.regA.getLsbD 7))

/-- `RRCA` (R371). -/
def execRrca (s : State) : Result := .next (s.rotateA (rrc8 s.regA s.carry).1 (s.regA.getLsbD 0))

/-- `RLA` (R372). -/
def execRla (s : State) : Result := .next (s.rotateA (rl8 s.regA s.carry).1 (s.regA.getLsbD 7))

/-- `RRA` (R373). -/
def execRra (s : State) : Result := .next (s.rotateA (rr8 s.regA s.carry).1 (s.regA.getLsbD 0))

/-! ## Meanings: rotates and shifts -/

/-- `RLC r` (R375). -/
def execRlcR (r : Reg8) (s : State) : Result := .next (s.rotReg rlc8 r)

/-- `RLC (HL)` (R375). -/
def execRlcIndHl (s : State) : Result := .next (s.rotIndHl rlc8)

/-- `RLC (XY+d)` (R375). -/
def execRlcIndXY (x : Index) (d : Byte) (s : State) : Result := .next (s.rotIndexed rlc8 x d)

/-- `RLC (XY+d),r` (R375), undocumented. -/
def execRlcIndXYR (x : Index) (d : Byte) (r : Reg8) (s : State) : Result :=
  s.ifAdmitted (.next (s.rotIndexedCopy rlc8 x d r))

/-- `RRC r` (R376). -/
def execRrcR (r : Reg8) (s : State) : Result := .next (s.rotReg rrc8 r)

/-- `RRC (HL)` (R376). -/
def execRrcIndHl (s : State) : Result := .next (s.rotIndHl rrc8)

/-- `RRC (XY+d)` (R376). -/
def execRrcIndXY (x : Index) (d : Byte) (s : State) : Result := .next (s.rotIndexed rrc8 x d)

/-- `RRC (XY+d),r` (R376), undocumented. -/
def execRrcIndXYR (x : Index) (d : Byte) (r : Reg8) (s : State) : Result :=
  s.ifAdmitted (.next (s.rotIndexedCopy rrc8 x d r))

/-- `RL r` (R377). -/
def execRlR (r : Reg8) (s : State) : Result := .next (s.rotReg rl8 r)

/-- `RL (HL)` (R377). -/
def execRlIndHl (s : State) : Result := .next (s.rotIndHl rl8)

/-- `RL (XY+d)` (R377). -/
def execRlIndXY (x : Index) (d : Byte) (s : State) : Result := .next (s.rotIndexed rl8 x d)

/-- `RL (XY+d),r` (R377), undocumented. -/
def execRlIndXYR (x : Index) (d : Byte) (r : Reg8) (s : State) : Result :=
  s.ifAdmitted (.next (s.rotIndexedCopy rl8 x d r))

/-- `RR r` (R378). -/
def execRrR (r : Reg8) (s : State) : Result := .next (s.rotReg rr8 r)

/-- `RR (HL)` (R378). -/
def execRrIndHl (s : State) : Result := .next (s.rotIndHl rr8)

/-- `RR (XY+d)` (R378). -/
def execRrIndXY (x : Index) (d : Byte) (s : State) : Result := .next (s.rotIndexed rr8 x d)

/-- `RR (XY+d),r` (R378), undocumented. -/
def execRrIndXYR (x : Index) (d : Byte) (r : Reg8) (s : State) : Result :=
  s.ifAdmitted (.next (s.rotIndexedCopy rr8 x d r))

/-- `SLA r` (R379). -/
def execSlaR (r : Reg8) (s : State) : Result := .next (s.rotReg sla8 r)

/-- `SLA (HL)` (R379). -/
def execSlaIndHl (s : State) : Result := .next (s.rotIndHl sla8)

/-- `SLA (XY+d)` (R379). -/
def execSlaIndXY (x : Index) (d : Byte) (s : State) : Result := .next (s.rotIndexed sla8 x d)

/-- `SLA (XY+d),r` (R379), undocumented. -/
def execSlaIndXYR (x : Index) (d : Byte) (r : Reg8) (s : State) : Result :=
  s.ifAdmitted (.next (s.rotIndexedCopy sla8 x d r))

/-- `SRA r` (R380). -/
def execSraR (r : Reg8) (s : State) : Result := .next (s.rotReg sra8 r)

/-- `SRA (HL)` (R380). -/
def execSraIndHl (s : State) : Result := .next (s.rotIndHl sra8)

/-- `SRA (XY+d)` (R380). -/
def execSraIndXY (x : Index) (d : Byte) (s : State) : Result := .next (s.rotIndexed sra8 x d)

/-- `SRA (XY+d),r` (R380), undocumented. -/
def execSraIndXYR (x : Index) (d : Byte) (r : Reg8) (s : State) : Result :=
  s.ifAdmitted (.next (s.rotIndexedCopy sra8 x d r))

/-- `SLL r` (R381), undocumented. -/
def execSllR (r : Reg8) (s : State) : Result := s.ifAdmitted (.next (s.rotReg sll8 r))

/-- `SLL (HL)` (R381), undocumented. -/
def execSllIndHl (s : State) : Result := s.ifAdmitted (.next (s.rotIndHl sll8))

/-- `SLL (XY+d)` (R381), undocumented. -/
def execSllIndXY (x : Index) (d : Byte) (s : State) : Result := s.ifAdmitted (.next (s.rotIndexed sll8 x d))

/-- `SLL (XY+d),r` (R381), undocumented. -/
def execSllIndXYR (x : Index) (d : Byte) (r : Reg8) (s : State) : Result :=
  s.ifAdmitted (.next (s.rotIndexedCopy sll8 x d r))

/-- `SRL r` (R382). -/
def execSrlR (r : Reg8) (s : State) : Result := .next (s.rotReg srl8 r)

/-- `SRL (HL)` (R382). -/
def execSrlIndHl (s : State) : Result := .next (s.rotIndHl srl8)

/-- `SRL (XY+d)` (R382). -/
def execSrlIndXY (x : Index) (d : Byte) (s : State) : Result := .next (s.rotIndexed srl8 x d)

/-- `SRL (XY+d),r` (R382), undocumented. -/
def execSrlIndXYR (x : Index) (d : Byte) (r : Reg8) (s : State) : Result :=
  s.ifAdmitted (.next (s.rotIndexedCopy srl8 x d r))

/-! ## Meanings: bit test, reset and set -/

/-- `BIT b,r` (R387). -/
def execBitR (b : BitVec 3) (r : Reg8) (s : State) : Result :=
  .next (s.setF (bitFlags b (s.reg8 r) (s.reg8 r) s.regF))

/-- `BIT b,(HL)` (R388), extra 1: X5 and X3 from MEMPTR, or a fresh free value when `MEMPTR_EXACT = false`
(R189, log entry 5). -/
def execBitIndHl (b : BitVec 3) (s : State) : Result :=
  if s.params.memptrExact then .next ((s.bitMem b (hi s.regs.memptr)).tick 1)
  else .next { (s.bitMem b (Config.bitDraw s.draws)).tick 1 with draws := s.draws + 1 }

/-- `BIT b,(XY+d)` (R395). -/
def execBitIndXY (b : BitVec 3) (x : Index) (d : Byte) (s : State) : Result := .next (s.bitIndexed b x d)

/-- The aliases of `BIT b,(XY+d)` (R395), undocumented: no register is written. -/
def execBitIndXYAlias (b : BitVec 3) (x : Index) (d : Byte) (_r : Reg8) (s : State) : Result :=
  s.ifAdmitted (.next (s.bitIndexed b x d))

/-- `RES b,r` (R389). -/
def execResR (b : BitVec 3) (r : Reg8) (s : State) : Result := .next (s.setReg8 r (clearBit b (s.reg8 r)))

/-- `RES b,(HL)` (R390), extra 1. -/
def execResIndHl (b : BitVec 3) (s : State) : Result :=
  .next ((s.rmw s.regs.hl (clearBit b (s.byteAt s.regs.hl))).tick 1)

/-- `RES b,(XY+d)` (R396). -/
def execResIndXY (b : BitVec 3) (x : Index) (d : Byte) (s : State) : Result :=
  .next (s.rmwIndexed x d (clearBit b (s.byteAt (s.ea x d))))

/-- `RES b,(XY+d),r` (R396), undocumented: the result also to the register. -/
def execResIndXYR (b : BitVec 3) (x : Index) (d : Byte) (r : Reg8) (s : State) : Result :=
  s.ifAdmitted (.next ((s.rmwIndexed x d (clearBit b (s.byteAt (s.ea x d)))).setReg8 r (clearBit b (s.byteAt (s.ea x d)))))

/-- `SET b,r` (R391). -/
def execSetR (b : BitVec 3) (r : Reg8) (s : State) : Result := .next (s.setReg8 r (raiseBit b (s.reg8 r)))

/-- `SET b,(HL)` (R392), extra 1. -/
def execSetIndHl (b : BitVec 3) (s : State) : Result :=
  .next ((s.rmw s.regs.hl (raiseBit b (s.byteAt s.regs.hl))).tick 1)

/-- `SET b,(XY+d)` (R397). -/
def execSetIndXY (b : BitVec 3) (x : Index) (d : Byte) (s : State) : Result :=
  .next (s.rmwIndexed x d (raiseBit b (s.byteAt (s.ea x d))))

/-- `SET b,(XY+d),r` (R397), undocumented: the result also to the register. -/
def execSetIndXYR (b : BitVec 3) (x : Index) (d : Byte) (r : Reg8) (s : State) : Result :=
  s.ifAdmitted (.next ((s.rmwIndexed x d (raiseBit b (s.byteAt (s.ea x d)))).setReg8 r (raiseBit b (s.byteAt (s.ea x d)))))

/-! ## Meanings: nibble rotates -/

/-- `RLD` (R393). -/
def execRld (s : State) : Result :=
  let v := s.byteAt s.regs.hl
  .next (s.nibbles ((v <<< 4) ||| (s.regA &&& (0x0F : Byte))) ((s.regA &&& (0xF0 : Byte)) ||| (v >>> 4)))

/-- `RRD` (R394). -/
def execRrd (s : State) : Result :=
  let v := s.byteAt s.regs.hl
  .next (s.nibbles ((s.regA <<< 4) ||| (v >>> 4)) ((s.regA &&& (0xF0 : Byte)) ||| (v &&& (0x0F : Byte))))

end Sys2Proof.Machine
end

