-- ==== Sys2Proof/Machine/Router.lean ====
section
/-!
DEFINITION. The router rows and the unassigned rows of the opcode table (30_encoding.md R131, R138,
60_exceptions.md R470, R471).

A router row is a lead-in byte with nothing decoded after it yet; `step` never meets one, since it decodes the
whole chain at once. Run as an instruction, it fetches on at PC and runs what the bytes there select
(log entry 14). An unassigned DD or FD entry under `Reexecute` goes the same way with its second byte.
-/

namespace Sys2Proof.Machine

/-- The soft path of R470: a diagnostic and nothing else, or the fault of `STRICT_UNASSIGNED = true`. The byte is
the last one fetched. -/
def softNop (t : Table) (b : Byte) (s : State) : Result :=
  if s.params.strictUnassigned then .fault (.unassigned t b (s.regs.pc - 1))
  else .next (s.log (.unassigned t b (s.regs.pc - 1)))

/-- R471: the soft path, or the lead-in dropped and `b`, already fetched, dispatched by `again`. -/
def unassignedIndexed (again : List Byte → State → Result) (x : Index) (b : Byte) (s : State) : Result :=
  match s.params.ddfdUnassigned with
  | .softNop => softNop x.table b s
  | .reexecute => again [b] s

/-- The meaning of every instruction, with `again` for the rows that dispatch on: the bytes already fetched, and
the state after their fetches. -/
def runWith (again : List Byte → State → Result) (i : Instr) (s : State) : Result :=
  match i with
  | .nop => execNop s
  | .ldRpNn p nn => execLdRpNn p nn s
  | .ldIndBcA => execLdIndBcA s
  | .ldIndDeA => execLdIndDeA s
  | .ldAIndBc => execLdAIndBc s
  | .ldAIndDe => execLdAIndDe s
  | .incRp p => execIncRp p s
  | .decRp p => execDecRp p s
  | .incR r => execIncR r s
  | .incIndHl => execIncIndHl s
  | .decR r => execDecR r s
  | .decIndHl => execDecIndHl s
  | .ldRN r n => execLdRN r n s
  | .ldIndHlN n => execLdIndHlN n s
  | .rlca => execRlca s
  | .rrca => execRrca s
  | .rla => execRla s
  | .rra => execRra s
  | .exAfAf => execExAfAf s
  | .addHlRp p => execAddHlRp p s
  | .djnz e => execDjnz e s
  | .jr e => execJr e s
  | .jrCc cc e => execJrCc cc e s
  | .ldIndNnHl nn => execLdIndNnHl nn s
  | .ldHlIndNn nn => execLdHlIndNn nn s
  | .ldIndNnA nn => execLdIndNnA nn s
  | .ldAIndNn nn => execLdAIndNn nn s
  | .daa => execDaa s
  | .cpl => execCpl s
  | .scf => execScf s
  | .ccf => execCcf s
  | .ldRR dst src => execLdRR dst src s
  | .ldRIndHl r => execLdRIndHl r s
  | .ldIndHlR r => execLdIndHlR r s
  | .halt => execHalt s
  | .addAR r => execAddAR r s
  | .addAIndHl => execAddAIndHl s
  | .adcAR r => execAdcAR r s
  | .adcAIndHl => execAdcAIndHl s
  | .subR r => execSubR r s
  | .subIndHl => execSubIndHl s
  | .sbcAR r => execSbcAR r s
  | .sbcAIndHl => execSbcAIndHl s
  | .andR r => execAndR r s
  | .andIndHl => execAndIndHl s
  | .xorR r => execXorR r s
  | .xorIndHl => execXorIndHl s
  | .orR r => execOrR r s
  | .orIndHl => execOrIndHl s
  | .cpR r => execCpR r s
  | .cpIndHl => execCpIndHl s
  | .addAN n => execAddAN n s
  | .adcAN n => execAdcAN n s
  | .subN n => execSubN n s
  | .sbcAN n => execSbcAN n s
  | .andN n => execAndN n s
  | .xorN n => execXorN n s
  | .orN n => execOrN n s
  | .cpN n => execCpN n s
  | .retCc cc => execRetCc cc s
  | .popRp2 p => execPopRp2 p s
  | .jpCcNn cc nn => execJpCcNn cc nn s
  | .jpNn nn => execJpNn nn s
  | .callCcNn cc nn => execCallCcNn cc nn s
  | .pushRp2 p => execPushRp2 p s
  | .rst t => execRst t s
  | .ret => execRet s
  | .prefixCB => again [0xCB] s
  | .callNn nn => execCallNn nn s
  | .outIndNA n => execOutIndNA n s
  | .inAIndN n => execInAIndN n s
  | .exx => execExx s
  | .prefixDD => again [0xDD] s
  | .prefixFD => again [0xFD] s
  | .exIndSpHl => execExIndSpHl s
  | .jpIndHl => execJpIndHl s
  | .exDeHl => execExDeHl s
  | .prefixED => again [0xED] s
  | .di => execDi s
  | .ei => execEi s
  | .ldSpHl => execLdSpHl s
  | .rlcR r => execRlcR r s
  | .rlcIndHl => execRlcIndHl s
  | .rrcR r => execRrcR r s
  | .rrcIndHl => execRrcIndHl s
  | .rlR r => execRlR r s
  | .rlIndHl => execRlIndHl s
  | .rrR r => execRrR r s
  | .rrIndHl => execRrIndHl s
  | .slaR r => execSlaR r s
  | .slaIndHl => execSlaIndHl s
  | .sraR r => execSraR r s
  | .sraIndHl => execSraIndHl s
  | .sllR r => execSllR r s
  | .sllIndHl => execSllIndHl s
  | .srlR r => execSrlR r s
  | .srlIndHl => execSrlIndHl s
  | .bitR b r => execBitR b r s
  | .bitIndHl b => execBitIndHl b s
  | .resR b r => execResR b r s
  | .resIndHl b => execResIndHl b s
  | .setR b r => execSetR b r s
  | .setIndHl b => execSetIndHl b s
  | .inRIndC r => execInRIndC r s
  | .inFIndC => execInFIndC s
  | .outIndCR r => execOutIndCR r s
  | .outIndC0 => execOutIndC0 s
  | .sbcHlRp p => execSbcHlRp p s
  | .adcHlRp p => execAdcHlRp p s
  | .ldIndNnRp nn p => execLdIndNnRp nn p s
  | .ldRpIndNn p nn => execLdRpIndNn p nn s
  | .neg => execNeg s
  | .negAlias y => execNegAlias y s
  | .retn => execRetn s
  | .reti => execReti s
  | .retnAlias y => execRetnAlias y s
  | .im0 => execIm0 s
  | .im0Alias y => execIm0Alias y s
  | .im1 => execIm1 s
  | .im1Alias => execIm1Alias s
  | .im2 => execIm2 s
  | .im2Alias => execIm2Alias s
  | .ldIA => execLdIA s
  | .ldRA => execLdRA s
  | .ldAI => execLdAI s
  | .ldAR => execLdAR s
  | .rrd => execRrd s
  | .rld => execRld s
  | .ldi => execLdi s
  | .cpi => execCpi s
  | .ini => execIni s
  | .outi => execOuti s
  | .ldd => execLdd s
  | .cpd => execCpd s
  | .ind => execInd s
  | .outd => execOutd s
  | .ldir => execLdir s
  | .cpir => execCpir s
  | .inir => execInir s
  | .otir => execOtir s
  | .lddr => execLddr s
  | .cpdr => execCpdr s
  | .indr => execIndr s
  | .otdr => execOtdr s
  | .addXYRp x p => execAddXYRp x p s
  | .ldXYNn x nn => execLdXYNn x nn s
  | .ldIndNnXY nn x => execLdIndNnXY nn x s
  | .ldXYIndNn x nn => execLdXYIndNn x nn s
  | .incXY x => execIncXY x s
  | .decXY x => execDecXY x s
  | .incXYH x => execIncXYH x s
  | .incXYL x => execIncXYL x s
  | .decXYH x => execDecXYH x s
  | .decXYL x => execDecXYL x s
  | .ldXYHN x n => execLdXYHN x n s
  | .ldXYLN x n => execLdXYLN x n s
  | .incIndXY x d => execIncIndXY x d s
  | .decIndXY x d => execDecIndXY x d s
  | .ldIndXYN x d n => execLdIndXYN x d n s
  | .ldRXYH r x => execLdRXYH r x s
  | .ldRXYL r x => execLdRXYL r x s
  | .ldXYHR x src => execLdXYHR x src s
  | .ldXYLR x src => execLdXYLR x src s
  | .ldRIndXY r x d => execLdRIndXY r x d s
  | .ldIndXYR x d r => execLdIndXYR x d r s
  | .ldIndXYRegH x d => execLdIndXYRegH x d s
  | .ldIndXYRegL x d => execLdIndXYRegL x d s
  | .addAXYH x => execAddAXYH x s
  | .addAXYL x => execAddAXYL x s
  | .addAIndXY x d => execAddAIndXY x d s
  | .adcAXYH x => execAdcAXYH x s
  | .adcAXYL x => execAdcAXYL x s
  | .adcAIndXY x d => execAdcAIndXY x d s
  | .subXYH x => execSubXYH x s
  | .subXYL x => execSubXYL x s
  | .subIndXY x d => execSubIndXY x d s
  | .sbcAXYH x => execSbcAXYH x s
  | .sbcAXYL x => execSbcAXYL x s
  | .sbcAIndXY x d => execSbcAIndXY x d s
  | .andXYH x => execAndXYH x s
  | .andXYL x => execAndXYL x s
  | .andIndXY x d => execAndIndXY x d s
  | .xorXYH x => execXorXYH x s
  | .xorXYL x => execXorXYL x s
  | .xorIndXY x d => execXorIndXY x d s
  | .orXYH x => execOrXYH x s
  | .orXYL x => execOrXYL x s
  | .orIndXY x d => execOrIndXY x d s
  | .cpXYH x => execCpXYH x s
  | .cpXYL x => execCpXYL x s
  | .cpIndXY x d => execCpIndXY x d s
  | .popXY x => execPopXY x s
  | .pushXY x => execPushXY x s
  | .exIndSpXY x => execExIndSpXY x s
  | .jpIndXY x => execJpIndXY x s
  | .ldSpXY x => execLdSpXY x s
  | .prefixXYCB x => again [x.leadIn, 0xCB] s
  | .rlcIndXY x d => execRlcIndXY x d s
  | .rlcIndXYR x d r => execRlcIndXYR x d r s
  | .rrcIndXY x d => execRrcIndXY x d s
  | .rrcIndXYR x d r => execRrcIndXYR x d r s
  | .rlIndXY x d => execRlIndXY x d s
  | .rlIndXYR x d r => execRlIndXYR x d r s
  | .rrIndXY x d => execRrIndXY x d s
  | .rrIndXYR x d r => execRrIndXYR x d r s
  | .slaIndXY x d => execSlaIndXY x d s
  | .slaIndXYR x d r => execSlaIndXYR x d r s
  | .sraIndXY x d => execSraIndXY x d s
  | .sraIndXYR x d r => execSraIndXYR x d r s
  | .sllIndXY x d => execSllIndXY x d s
  | .sllIndXYR x d r => execSllIndXYR x d r s
  | .srlIndXY x d => execSrlIndXY x d s
  | .srlIndXYR x d r => execSrlIndXYR x d r s
  | .bitIndXY b x d => execBitIndXY b x d s
  | .bitIndXYAlias b x d r => execBitIndXYAlias b x d r s
  | .resIndXY b x d => execResIndXY b x d s
  | .resIndXYR b x d r => execResIndXYR b x d r s
  | .setIndXY b x d => execSetIndXY b x d s
  | .setIndXYR b x d r => execSetIndXYR b x d r s
  | .unassignedED b => softNop .ed b s
  | .unassignedXY x b => unassignedIndexed again x b s

/-- The router (R131): the instruction that begins with the fetched bytes `pre` is fetched to its end and run.
The fuel bounds the chain of R138. -/
def route : Nat → List Byte → State → Result
  | 0, _, _ => .fault .endlessLeadIns
  | n + 1, pre, s => runWith (route n) (s.decodeAfter pre) (s.fetchAfter pre (s.decodeAfter pre))

/-- More lead-ins than memory has bytes: a longer chain never ends (log entry 11). -/
def chainFuel : Nat := 65537

/-! ## Meanings -/

/-- The router entry 0xCB (R131). -/
def execPrefixCB (s : State) : Result := route chainFuel [0xCB] s

/-- The router entry 0xED (R131). -/
def execPrefixED (s : State) : Result := route chainFuel [0xED] s

/-- The router entry 0xDD (R131). -/
def execPrefixDD (s : State) : Result := route chainFuel [0xDD] s

/-- The router entry 0xFD (R131). -/
def execPrefixFD (s : State) : Result := route chainFuel [0xFD] s

/-- The escape 0xCB of the DD and FD tables (R131). -/
def execPrefixXYCB (x : Index) (s : State) : Result := route chainFuel [x.leadIn, 0xCB] s

/-- An unassigned ED entry (R470). -/
def execUnassignedED (b : Byte) (s : State) : Result := softNop .ed b s

/-- An unassigned DD or FD entry (R471). -/
def execUnassignedXY (x : Index) (b : Byte) (s : State) : Result := unassignedIndexed (route chainFuel) x b s

end Sys2Proof.Machine
end

