-- ==== Sys2Proof/Machine/Dispatch.lean ====
section
/-!
DEFINITION. The dispatch: one arm for each instruction, one call of its meaning.
-/

namespace Sys2Proof.Machine

/-- The meaning of an instruction, in the state after its own bytes have been fetched. -/
def exec (i : Instr) (s : State) : Host.Outcome State Fault Refusal :=
  match i with
  | .nop => Sys2Proof.Machine.execNop s
  | .ldRpNn p nn => Sys2Proof.Machine.execLdRpNn p nn s
  | .ldIndBcA => Sys2Proof.Machine.execLdIndBcA s
  | .ldIndDeA => Sys2Proof.Machine.execLdIndDeA s
  | .ldAIndBc => Sys2Proof.Machine.execLdAIndBc s
  | .ldAIndDe => Sys2Proof.Machine.execLdAIndDe s
  | .incRp p => Sys2Proof.Machine.execIncRp p s
  | .decRp p => Sys2Proof.Machine.execDecRp p s
  | .incR r => Sys2Proof.Machine.execIncR r s
  | .incIndHl => Sys2Proof.Machine.execIncIndHl s
  | .decR r => Sys2Proof.Machine.execDecR r s
  | .decIndHl => Sys2Proof.Machine.execDecIndHl s
  | .ldRN r n => Sys2Proof.Machine.execLdRN r n s
  | .ldIndHlN n => Sys2Proof.Machine.execLdIndHlN n s
  | .rlca => Sys2Proof.Machine.execRlca s
  | .rrca => Sys2Proof.Machine.execRrca s
  | .rla => Sys2Proof.Machine.execRla s
  | .rra => Sys2Proof.Machine.execRra s
  | .exAfAf => Sys2Proof.Machine.execExAfAf s
  | .addHlRp p => Sys2Proof.Machine.execAddHlRp p s
  | .djnz e => Sys2Proof.Machine.execDjnz e s
  | .jr e => Sys2Proof.Machine.execJr e s
  | .jrCc cc e => Sys2Proof.Machine.execJrCc cc e s
  | .ldIndNnHl nn => Sys2Proof.Machine.execLdIndNnHl nn s
  | .ldHlIndNn nn => Sys2Proof.Machine.execLdHlIndNn nn s
  | .ldIndNnA nn => Sys2Proof.Machine.execLdIndNnA nn s
  | .ldAIndNn nn => Sys2Proof.Machine.execLdAIndNn nn s
  | .daa => Sys2Proof.Machine.execDaa s
  | .cpl => Sys2Proof.Machine.execCpl s
  | .scf => Sys2Proof.Machine.execScf s
  | .ccf => Sys2Proof.Machine.execCcf s
  | .ldRR dst src => Sys2Proof.Machine.execLdRR dst src s
  | .ldRIndHl r => Sys2Proof.Machine.execLdRIndHl r s
  | .ldIndHlR r => Sys2Proof.Machine.execLdIndHlR r s
  | .halt => Sys2Proof.Machine.execHalt s
  | .addAR r => Sys2Proof.Machine.execAddAR r s
  | .addAIndHl => Sys2Proof.Machine.execAddAIndHl s
  | .adcAR r => Sys2Proof.Machine.execAdcAR r s
  | .adcAIndHl => Sys2Proof.Machine.execAdcAIndHl s
  | .subR r => Sys2Proof.Machine.execSubR r s
  | .subIndHl => Sys2Proof.Machine.execSubIndHl s
  | .sbcAR r => Sys2Proof.Machine.execSbcAR r s
  | .sbcAIndHl => Sys2Proof.Machine.execSbcAIndHl s
  | .andR r => Sys2Proof.Machine.execAndR r s
  | .andIndHl => Sys2Proof.Machine.execAndIndHl s
  | .xorR r => Sys2Proof.Machine.execXorR r s
  | .xorIndHl => Sys2Proof.Machine.execXorIndHl s
  | .orR r => Sys2Proof.Machine.execOrR r s
  | .orIndHl => Sys2Proof.Machine.execOrIndHl s
  | .cpR r => Sys2Proof.Machine.execCpR r s
  | .cpIndHl => Sys2Proof.Machine.execCpIndHl s
  | .addAN n => Sys2Proof.Machine.execAddAN n s
  | .adcAN n => Sys2Proof.Machine.execAdcAN n s
  | .subN n => Sys2Proof.Machine.execSubN n s
  | .sbcAN n => Sys2Proof.Machine.execSbcAN n s
  | .andN n => Sys2Proof.Machine.execAndN n s
  | .xorN n => Sys2Proof.Machine.execXorN n s
  | .orN n => Sys2Proof.Machine.execOrN n s
  | .cpN n => Sys2Proof.Machine.execCpN n s
  | .retCc cc => Sys2Proof.Machine.execRetCc cc s
  | .popRp2 p => Sys2Proof.Machine.execPopRp2 p s
  | .jpCcNn cc nn => Sys2Proof.Machine.execJpCcNn cc nn s
  | .jpNn nn => Sys2Proof.Machine.execJpNn nn s
  | .callCcNn cc nn => Sys2Proof.Machine.execCallCcNn cc nn s
  | .pushRp2 p => Sys2Proof.Machine.execPushRp2 p s
  | .rst t => Sys2Proof.Machine.execRst t s
  | .ret => Sys2Proof.Machine.execRet s
  | .prefixCB => Sys2Proof.Machine.execPrefixCB s
  | .callNn nn => Sys2Proof.Machine.execCallNn nn s
  | .outIndNA n => Sys2Proof.Machine.execOutIndNA n s
  | .inAIndN n => Sys2Proof.Machine.execInAIndN n s
  | .exx => Sys2Proof.Machine.execExx s
  | .prefixDD => Sys2Proof.Machine.execPrefixDD s
  | .prefixFD => Sys2Proof.Machine.execPrefixFD s
  | .exIndSpHl => Sys2Proof.Machine.execExIndSpHl s
  | .jpIndHl => Sys2Proof.Machine.execJpIndHl s
  | .exDeHl => Sys2Proof.Machine.execExDeHl s
  | .prefixED => Sys2Proof.Machine.execPrefixED s
  | .di => Sys2Proof.Machine.execDi s
  | .ei => Sys2Proof.Machine.execEi s
  | .ldSpHl => Sys2Proof.Machine.execLdSpHl s
  | .rlcR r => Sys2Proof.Machine.execRlcR r s
  | .rlcIndHl => Sys2Proof.Machine.execRlcIndHl s
  | .rrcR r => Sys2Proof.Machine.execRrcR r s
  | .rrcIndHl => Sys2Proof.Machine.execRrcIndHl s
  | .rlR r => Sys2Proof.Machine.execRlR r s
  | .rlIndHl => Sys2Proof.Machine.execRlIndHl s
  | .rrR r => Sys2Proof.Machine.execRrR r s
  | .rrIndHl => Sys2Proof.Machine.execRrIndHl s
  | .slaR r => Sys2Proof.Machine.execSlaR r s
  | .slaIndHl => Sys2Proof.Machine.execSlaIndHl s
  | .sraR r => Sys2Proof.Machine.execSraR r s
  | .sraIndHl => Sys2Proof.Machine.execSraIndHl s
  | .sllR r => Sys2Proof.Machine.execSllR r s
  | .sllIndHl => Sys2Proof.Machine.execSllIndHl s
  | .srlR r => Sys2Proof.Machine.execSrlR r s
  | .srlIndHl => Sys2Proof.Machine.execSrlIndHl s
  | .bitR b r => Sys2Proof.Machine.execBitR b r s
  | .bitIndHl b => Sys2Proof.Machine.execBitIndHl b s
  | .resR b r => Sys2Proof.Machine.execResR b r s
  | .resIndHl b => Sys2Proof.Machine.execResIndHl b s
  | .setR b r => Sys2Proof.Machine.execSetR b r s
  | .setIndHl b => Sys2Proof.Machine.execSetIndHl b s
  | .inRIndC r => Sys2Proof.Machine.execInRIndC r s
  | .inFIndC => Sys2Proof.Machine.execInFIndC s
  | .outIndCR r => Sys2Proof.Machine.execOutIndCR r s
  | .outIndC0 => Sys2Proof.Machine.execOutIndC0 s
  | .sbcHlRp p => Sys2Proof.Machine.execSbcHlRp p s
  | .adcHlRp p => Sys2Proof.Machine.execAdcHlRp p s
  | .ldIndNnRp nn p => Sys2Proof.Machine.execLdIndNnRp nn p s
  | .ldRpIndNn p nn => Sys2Proof.Machine.execLdRpIndNn p nn s
  | .neg => Sys2Proof.Machine.execNeg s
  | .negAlias y => Sys2Proof.Machine.execNegAlias y s
  | .retn => Sys2Proof.Machine.execRetn s
  | .reti => Sys2Proof.Machine.execReti s
  | .retnAlias y => Sys2Proof.Machine.execRetnAlias y s
  | .im0 => Sys2Proof.Machine.execIm0 s
  | .im0Alias y => Sys2Proof.Machine.execIm0Alias y s
  | .im1 => Sys2Proof.Machine.execIm1 s
  | .im1Alias => Sys2Proof.Machine.execIm1Alias s
  | .im2 => Sys2Proof.Machine.execIm2 s
  | .im2Alias => Sys2Proof.Machine.execIm2Alias s
  | .ldIA => Sys2Proof.Machine.execLdIA s
  | .ldRA => Sys2Proof.Machine.execLdRA s
  | .ldAI => Sys2Proof.Machine.execLdAI s
  | .ldAR => Sys2Proof.Machine.execLdAR s
  | .rrd => Sys2Proof.Machine.execRrd s
  | .rld => Sys2Proof.Machine.execRld s
  | .ldi => Sys2Proof.Machine.execLdi s
  | .cpi => Sys2Proof.Machine.execCpi s
  | .ini => Sys2Proof.Machine.execIni s
  | .outi => Sys2Proof.Machine.execOuti s
  | .ldd => Sys2Proof.Machine.execLdd s
  | .cpd => Sys2Proof.Machine.execCpd s
  | .ind => Sys2Proof.Machine.execInd s
  | .outd => Sys2Proof.Machine.execOutd s
  | .ldir => Sys2Proof.Machine.execLdir s
  | .cpir => Sys2Proof.Machine.execCpir s
  | .inir => Sys2Proof.Machine.execInir s
  | .otir => Sys2Proof.Machine.execOtir s
  | .lddr => Sys2Proof.Machine.execLddr s
  | .cpdr => Sys2Proof.Machine.execCpdr s
  | .indr => Sys2Proof.Machine.execIndr s
  | .otdr => Sys2Proof.Machine.execOtdr s
  | .addXYRp x p => Sys2Proof.Machine.execAddXYRp x p s
  | .ldXYNn x nn => Sys2Proof.Machine.execLdXYNn x nn s
  | .ldIndNnXY nn x => Sys2Proof.Machine.execLdIndNnXY nn x s
  | .ldXYIndNn x nn => Sys2Proof.Machine.execLdXYIndNn x nn s
  | .incXY x => Sys2Proof.Machine.execIncXY x s
  | .decXY x => Sys2Proof.Machine.execDecXY x s
  | .incXYH x => Sys2Proof.Machine.execIncXYH x s
  | .incXYL x => Sys2Proof.Machine.execIncXYL x s
  | .decXYH x => Sys2Proof.Machine.execDecXYH x s
  | .decXYL x => Sys2Proof.Machine.execDecXYL x s
  | .ldXYHN x n => Sys2Proof.Machine.execLdXYHN x n s
  | .ldXYLN x n => Sys2Proof.Machine.execLdXYLN x n s
  | .incIndXY x d => Sys2Proof.Machine.execIncIndXY x d s
  | .decIndXY x d => Sys2Proof.Machine.execDecIndXY x d s
  | .ldIndXYN x d n => Sys2Proof.Machine.execLdIndXYN x d n s
  | .ldRXYH r x => Sys2Proof.Machine.execLdRXYH r x s
  | .ldRXYL r x => Sys2Proof.Machine.execLdRXYL r x s
  | .ldXYHR x src => Sys2Proof.Machine.execLdXYHR x src s
  | .ldXYLR x src => Sys2Proof.Machine.execLdXYLR x src s
  | .ldRIndXY r x d => Sys2Proof.Machine.execLdRIndXY r x d s
  | .ldIndXYR x d r => Sys2Proof.Machine.execLdIndXYR x d r s
  | .ldIndXYRegH x d => Sys2Proof.Machine.execLdIndXYRegH x d s
  | .ldIndXYRegL x d => Sys2Proof.Machine.execLdIndXYRegL x d s
  | .addAXYH x => Sys2Proof.Machine.execAddAXYH x s
  | .addAXYL x => Sys2Proof.Machine.execAddAXYL x s
  | .addAIndXY x d => Sys2Proof.Machine.execAddAIndXY x d s
  | .adcAXYH x => Sys2Proof.Machine.execAdcAXYH x s
  | .adcAXYL x => Sys2Proof.Machine.execAdcAXYL x s
  | .adcAIndXY x d => Sys2Proof.Machine.execAdcAIndXY x d s
  | .subXYH x => Sys2Proof.Machine.execSubXYH x s
  | .subXYL x => Sys2Proof.Machine.execSubXYL x s
  | .subIndXY x d => Sys2Proof.Machine.execSubIndXY x d s
  | .sbcAXYH x => Sys2Proof.Machine.execSbcAXYH x s
  | .sbcAXYL x => Sys2Proof.Machine.execSbcAXYL x s
  | .sbcAIndXY x d => Sys2Proof.Machine.execSbcAIndXY x d s
  | .andXYH x => Sys2Proof.Machine.execAndXYH x s
  | .andXYL x => Sys2Proof.Machine.execAndXYL x s
  | .andIndXY x d => Sys2Proof.Machine.execAndIndXY x d s
  | .xorXYH x => Sys2Proof.Machine.execXorXYH x s
  | .xorXYL x => Sys2Proof.Machine.execXorXYL x s
  | .xorIndXY x d => Sys2Proof.Machine.execXorIndXY x d s
  | .orXYH x => Sys2Proof.Machine.execOrXYH x s
  | .orXYL x => Sys2Proof.Machine.execOrXYL x s
  | .orIndXY x d => Sys2Proof.Machine.execOrIndXY x d s
  | .cpXYH x => Sys2Proof.Machine.execCpXYH x s
  | .cpXYL x => Sys2Proof.Machine.execCpXYL x s
  | .cpIndXY x d => Sys2Proof.Machine.execCpIndXY x d s
  | .popXY x => Sys2Proof.Machine.execPopXY x s
  | .pushXY x => Sys2Proof.Machine.execPushXY x s
  | .exIndSpXY x => Sys2Proof.Machine.execExIndSpXY x s
  | .jpIndXY x => Sys2Proof.Machine.execJpIndXY x s
  | .ldSpXY x => Sys2Proof.Machine.execLdSpXY x s
  | .prefixXYCB x => Sys2Proof.Machine.execPrefixXYCB x s
  | .rlcIndXY x d => Sys2Proof.Machine.execRlcIndXY x d s
  | .rlcIndXYR x d r => Sys2Proof.Machine.execRlcIndXYR x d r s
  | .rrcIndXY x d => Sys2Proof.Machine.execRrcIndXY x d s
  | .rrcIndXYR x d r => Sys2Proof.Machine.execRrcIndXYR x d r s
  | .rlIndXY x d => Sys2Proof.Machine.execRlIndXY x d s
  | .rlIndXYR x d r => Sys2Proof.Machine.execRlIndXYR x d r s
  | .rrIndXY x d => Sys2Proof.Machine.execRrIndXY x d s
  | .rrIndXYR x d r => Sys2Proof.Machine.execRrIndXYR x d r s
  | .slaIndXY x d => Sys2Proof.Machine.execSlaIndXY x d s
  | .slaIndXYR x d r => Sys2Proof.Machine.execSlaIndXYR x d r s
  | .sraIndXY x d => Sys2Proof.Machine.execSraIndXY x d s
  | .sraIndXYR x d r => Sys2Proof.Machine.execSraIndXYR x d r s
  | .sllIndXY x d => Sys2Proof.Machine.execSllIndXY x d s
  | .sllIndXYR x d r => Sys2Proof.Machine.execSllIndXYR x d r s
  | .srlIndXY x d => Sys2Proof.Machine.execSrlIndXY x d s
  | .srlIndXYR x d r => Sys2Proof.Machine.execSrlIndXYR x d r s
  | .bitIndXY b x d => Sys2Proof.Machine.execBitIndXY b x d s
  | .bitIndXYAlias b x d r => Sys2Proof.Machine.execBitIndXYAlias b x d r s
  | .resIndXY b x d => Sys2Proof.Machine.execResIndXY b x d s
  | .resIndXYR b x d r => Sys2Proof.Machine.execResIndXYR b x d r s
  | .setIndXY b x d => Sys2Proof.Machine.execSetIndXY b x d s
  | .setIndXYR b x d r => Sys2Proof.Machine.execSetIndXYR b x d r s
  | .unassignedED b => Sys2Proof.Machine.execUnassignedED b s
  | .unassignedXY x b => Sys2Proof.Machine.execUnassignedXY x b s

end Sys2Proof.Machine
end

