-- ==== Sys2Proof/Machine/Host.lean ====
section
/-!
DEFINITION. The host's calls between steps (10_state.md R47, 70_reset_and_hazards.md R513, R515).
-/

namespace Sys2Proof.Machine

/-- How many values a field's type has; a host write of any other is refused (R47, D26). R takes a byte and
stores its bits 6 to 0 (R47, log entry 13). -/
def hostFieldBound (fld : HostField) : Nat :=
  match fld with
  | .af => 65536
  | .bc => 65536
  | .de => 65536
  | .hl => 65536
  | .afAlt => 65536
  | .bcAlt => 65536
  | .deAlt => 65536
  | .hlAlt => 65536
  | .ix => 65536
  | .iy => 65536
  | .sp => 65536
  | .pc => 65536
  | .memptr => 65536
  | .a => 256
  | .f => 256
  | .b => 256
  | .c => 256
  | .d => 256
  | .e => 256
  | .h => 256
  | .l => 256
  | .ixh => 256
  | .ixl => 256
  | .iyh => 256
  | .iyl => 256
  | .i => 256
  | .r => 256
  | .r7 => 2
  | .iff1 => 2
  | .iff2 => 2
  | .im => 3
  | .halted => 2

/-- The mode of a number below 3 (R44). -/
def intModeOf (v : Nat) : IntMode :=
  match v with
  | 0 => .im0
  | 1 => .im1
  | _ => .im2

/-- The register file with a field set to a value of its type; an 8-bit view sets its half (R32). -/
def RegFile.poke (g : RegFile) (fld : HostField) (v : Nat) : RegFile :=
  match fld with
  | .af => { g with af := BitVec.ofNat 16 v }
  | .bc => { g with bc := BitVec.ofNat 16 v }
  | .de => { g with de := BitVec.ofNat 16 v }
  | .hl => { g with hl := BitVec.ofNat 16 v }
  | .afAlt => { g with afAlt := BitVec.ofNat 16 v }
  | .bcAlt => { g with bcAlt := BitVec.ofNat 16 v }
  | .deAlt => { g with deAlt := BitVec.ofNat 16 v }
  | .hlAlt => { g with hlAlt := BitVec.ofNat 16 v }
  | .ix => { g with ix := BitVec.ofNat 16 v }
  | .iy => { g with iy := BitVec.ofNat 16 v }
  | .sp => { g with sp := BitVec.ofNat 16 v }
  | .pc => { g with pc := BitVec.ofNat 16 v }
  | .memptr => { g with memptr := BitVec.ofNat 16 v }
  | .a => { g with af := word (BitVec.ofNat 8 v) (lo g.af) }
  | .f => { g with af := word (hi g.af) (BitVec.ofNat 8 v) }
  | .b => { g with bc := word (BitVec.ofNat 8 v) (lo g.bc) }
  | .c => { g with bc := word (hi g.bc) (BitVec.ofNat 8 v) }
  | .d => { g with de := word (BitVec.ofNat 8 v) (lo g.de) }
  | .e => { g with de := word (hi g.de) (BitVec.ofNat 8 v) }
  | .h => { g with hl := word (BitVec.ofNat 8 v) (lo g.hl) }
  | .l => { g with hl := word (hi g.hl) (BitVec.ofNat 8 v) }
  | .ixh => { g with ix := word (BitVec.ofNat 8 v) (lo g.ix) }
  | .ixl => { g with ix := word (hi g.ix) (BitVec.ofNat 8 v) }
  | .iyh => { g with iy := word (BitVec.ofNat 8 v) (lo g.iy) }
  | .iyl => { g with iy := word (hi g.iy) (BitVec.ofNat 8 v) }
  | .i => { g with i := BitVec.ofNat 8 v }
  | .r => { g with r := BitVec.ofNat 7 v }
  | .r7 => { g with r7 := v == 1 }
  | .iff1 => { g with iff1 := v == 1 }
  | .iff2 => { g with iff2 := v == 1 }
  | .im => { g with im := intModeOf v }
  | .halted => { g with halted := v == 1 }

/-- A host write of a register-file field (R47). -/
def State.writeField (s : State) (fld : HostField) (v : Nat) : Result :=
  if v < hostFieldBound fld then .next { s with regs := s.regs.poke fld v } else .refused (.hostWrite fld v)

/-- The host changing its own memory (R326, log entry 21). -/
def State.pokeMemory (s : State) (a : Word) (v : Byte) : State := { s with mem := s.mem.write a.toNat v }

/-- The host's next call: `step()` where the schedule says nothing else (R514). -/
def State.nextCall (s : State) : HostCall := s.schedule.headD .step

/-- The schedule without that call. -/
def State.dropCall (s : State) : State := { s with schedule := s.schedule.tail }

/-- One call of the host, with `cpu` the meaning of `step()` (R513). -/
def hostCall (cpu : State → Result) (c : HostCall) (s : State) : Result :=
  match c with
  | .step => cpu s
  | .requestMaskable => .next s.requestMaskable
  | .requestNonMaskable => .next s.requestNonMaskable
  | .reset => .next s.resetRegisters
  | .writeField fld v => s.writeField fld v
  | .pokeMemory a v => .next (s.pokeMemory a v)

/-- Bytes stored by the host at consecutive addresses. -/
def State.pokeBytes : State → Word → List Byte → State
  | s, _, [] => s
  | s, a, v :: vs => (s.pokeMemory a v).pokeBytes (a + 1) vs

/-- The schedule with `step()` as its next call. -/
def State.stepNext (s : State) : State :=
  match s.nextCall with
  | .step => s
  | .requestMaskable => { s with schedule := .step :: s.schedule }
  | .requestNonMaskable => { s with schedule := .step :: s.schedule }
  | .reset => { s with schedule := .step :: s.schedule }
  | .writeField _ _ => { s with schedule := .step :: s.schedule }
  | .pokeMemory _ _ => { s with schedule := .step :: s.schedule }

end Sys2Proof.Machine
end

