-- ==== Sys2Proof/Machine/Step.lean ====
section
/-!
DEFINITION. The step of the whole machine: the host's next call, which is `step()` of the core unless the
schedule says otherwise (70_reset_and_hazards.md R513, R514, log entry 6).
-/

namespace Sys2Proof.Machine

/-- `step()` of the core (R120): the instruction at PC is fetched and run. -/
def cpuStep (s : State) : Result := s.stepWith exec

/-- One call of the host. -/
def step (s : State) : Host.Outcome State Fault Refusal := hostCall cpuStep s.nextCall s.dropCall

/-- The instruction whose bits are `w` placed at PC as the host loads a program, and `step()` as the next call
(log entry 16). -/
def State.withFetchWord (s : State) (nbits w : Nat) : State :=
  (s.pokeBytes s.regs.pc (tableBytes nbits w)).stepNext

end Sys2Proof.Machine
end

