-- ==== Sys2Proof/Machine/Run.lean ====
section
/-!
DEFINITION. The end of a run (70_reset_and_hazards.md R514, R516). A run is the sequence of states that `step`
answers, one for each call of the host; a fault or a refusal ends the sequence without a state (log entry 8).
-/

namespace Sys2Proof.Machine

/-- Where the run of a claim ends (R516): at the HALT it executes, or at an address the claim names. -/
inductive RunEnd where
  | halted
  | address (e : Word)
deriving DecidableEq, Repr

/-- What R516 asks of the state the run ends in. -/
def State.meets (s : State) : RunEnd → Bool
  | .halted => s.regs.halted
  | .address e => s.regs.pc == e

/-- The call that leads from `s` to `t` is `step()`, and `t` meets the end: neither the launch state nor the state
after a delivery, a reset or a host write ends a run (R516). -/
def State.endsWith (s t : State) (e : RunEnd) : Bool := s.nextCall == .step && t.meets e

/-- The final state of the run from `s` if it comes within `n` calls of the host: the first state reached after a
`step()` that meets the end (R516). A fault or a refusal leaves the run without an end. -/
def State.finalWithin (e : RunEnd) : Nat → State → Option State
  | 0, _ => none
  | n + 1, s =>
    match step s with
    | .next t => if s.endsWith t e then some t else State.finalWithin e n t
    | .fault _ => none
    | .refused _ => none

/-- `t` is the final state of the run from `s` (R516). -/
def State.EndsIn (s : State) (e : RunEnd) (t : State) : Prop := ∃ n, s.finalWithin e n = some t

/-- The run from `s` has no end (R516): it goes on for ever or stops with a fault or a refusal. -/
def State.NeverEnds (s : State) (e : RunEnd) : Prop := ∀ n, s.finalWithin e n = none

end Sys2Proof.Machine
end

