-- ==== Sys2Proof/Safety.lean ====
section
/-!
DEFINITION. The terms statements are made in: the invariant, time, what an instruction leaves, and the spec's own
closed forms of results and flags (40_alu_flags.md R175), written without the tables.
-/

namespace Sys2Proof.Machine

/-! ## The invariant, time -/

/-- The invariant of every step: the memory is in canonical form. -/
def State.Inv (s : State) : Prop := s.mem.wf = true

/-- The units of one event (R511). -/
def Event.units : Event → Nat
  | .tick n => n
  | .memRead _ _ => 0
  | .memWrite _ _ => 0
  | .portRead _ _ => 0
  | .portWrite _ _ => 0
  | .unassigned _ _ _ => 0

/-- The units of a trace. -/
def unitsOf : List Event → Nat
  | [] => 0
  | e :: es => e.units + unitsOf es

/-- The units charged so far: the total the host sums (R511). -/
def State.units (s : State) : Nat := unitsOf s.trace

/-! ## What an instruction leaves -/

/-- The byte at `a` after the stores listed, those to an address of `ROM_SET` without effect (R101). -/
def State.afterStores (s : State) : List (Word × Byte) → Word → Byte
  | [], a => s.byteAt a
  | (b, v) :: rest, a => if a = b ∧ s.inRom b = false then v else s.afterStores rest a

/-- `t` differs from `s` outside the registers in the listed stores and the listed events, oldest first, alone. -/
def Frame (s t : State) (stores : List (Word × Byte)) (events : List Event) : Prop :=
  (∀ a, t.byteAt a = s.afterStores stores a) ∧ t.trace = events.reverse ++ s.trace ∧ t.eiLast = s.eiLast
    ∧ t.params = s.params ∧ t.schedule = s.schedule ∧ t.portQueue = s.portQueue ∧ t.draws = s.draws

/-- The outcome is a next state whose registers satisfy `P`, and which `Frame` relates to `s`. -/
def Leaves (o : Result) (s : State) (P : RegFile → Prop) (stores : List (Word × Byte)) (events : List Event) : Prop :=
  ∃ t, o = .next t ∧ P t.regs ∧ Frame s t stores events

/-- The events of `MemRead(a,1)` (R84). -/
def State.rd (s : State) (a : Word) : List Event := [.tick 3, .memRead a (s.byteAt a)]

/-- The events of fetches in order from the address `a` upward (R36, R84, R121, R122). -/
def State.fetchEvents (s : State) : Word → List FetchKind → List Event
  | _, [] => []
  | a, .op :: ks => [.tick 4, .memRead a (s.byteAt a)] ++ s.fetchEvents (a + 1) ks
  | a, .operand :: ks => [.tick 3, .memRead a (s.byteAt a)] ++ s.fetchEvents (a + 1) ks

/-- The events of `MemWrite(a,1,v)` (R84). -/
def wr (a : Word) (v : Byte) : List Event := [.tick 3, .memWrite a v]

/-- The events of `PortRead(port)` (R84). -/
def State.inp (s : State) (port : Word) : List Event := [.tick 1, .portRead port (s.portByte port), .tick 3]

/-- The events of `PortWrite(port, v)` (R84). -/
def outp (port : Word) (v : Byte) : List Event := [.tick 1, .portWrite port v, .tick 3]

/-- `s` with one answer taken from the host: the next queued byte, or a fresh draw (R101). -/
def State.answered (s : State) : State :=
  { s with portQueue := s.portQueue.tail, draws := if s.portQueue.isEmpty then s.draws + 1 else s.draws }

/-- The 8-bit view of a register file that a register code names (R32, R126). -/
def RegFile.view (g : RegFile) : Reg8 → Byte
  | .b => g.bc.extractLsb' 8 8
  | .c => g.bc.extractLsb' 0 8
  | .d => g.de.extractLsb' 8 8
  | .e => g.de.extractLsb' 0 8
  | .h => g.hl.extractLsb' 8 8
  | .l => g.hl.extractLsb' 0 8
  | .a => g.af.extractLsb' 8 8

/-- F of a register file (R37). -/
def RegFile.f (g : RegFile) : Byte := g.af.extractLsb' 0 8

/-- `g` with A holding `v` and F holding `f` (R32). -/
def RegFile.withAF (g : RegFile) (v f : Byte) : RegFile := { g with af := v ++ f }

/-- `g'` is `g` with the 8-bit register `r` holding `v` and F holding `f`, and nothing else changed (R32). -/
def Sets8F (g g' : RegFile) (r : Reg8) (v f : Byte) : Prop :=
  g'.view r = v ∧ (∀ q, q ≠ r → g'.view q = g.view q) ∧ g'.f = f
    ∧ g' = { g with af := g'.af, bc := g'.bc, de := g'.de, hl := g'.hl }

/-- `g'` is `g` with the 8-bit register `r` holding `v`, and nothing else changed, F included (R32). -/
def Sets8 (g g' : RegFile) (r : Reg8) (v : Byte) : Prop := Sets8F g g' r v g.f

/-- The pair `rp` of a register file (R126). -/
def RegFile.rp (g : RegFile) : Pair → Word
  | .bc => g.bc
  | .de => g.de
  | .hl => g.hl
  | .sp => g.sp

/-- `g'` is `g` with the pair `p` holding `v`, and nothing else changed (R126). -/
def Sets16 (g g' : RegFile) (p : Pair) (v : Word) : Prop :=
  g'.rp p = v ∧ (∀ q, q ≠ p → g'.rp q = g.rp q) ∧ g' = { g with bc := g'.bc, de := g'.de, hl := g'.hl, sp := g'.sp }

/-- The pair `rp2` of a register file (R126). -/
def RegFile.rp2 (g : RegFile) : StackPair → Word
  | .bc => g.bc
  | .de => g.de
  | .hl => g.hl
  | .af => g.af

/-- `g'` is `g` with the pair `p` of PUSH and POP holding `v`, and nothing else changed (R126). -/
def Sets16S (g g' : RegFile) (p : StackPair) (v : Word) : Prop :=
  g'.rp2 p = v ∧ (∀ q, q ≠ p → g'.rp2 q = g.rp2 q)
    ∧ g' = { g with bc := g'.bc, de := g'.de, hl := g'.hl, af := g'.af }

/-- The index register of a register file (R34). -/
def RegFile.xy (g : RegFile) : Index → Word
  | .ix => g.ix
  | .iy => g.iy

/-- `g'` is `g` with the index register `x` holding `v`, and nothing else changed (R34). -/
def SetsIndex (g g' : RegFile) (x : Index) (v : Word) : Prop :=
  g'.xy x = v ∧ (∀ y, y ≠ x → g'.xy y = g.xy y) ∧ g' = { g with ix := g'.ix, iy := g'.iy }

/-- The sources of `LD XYH,r` and `LD XYL,r` in a register file (R209). -/
def RegFile.source (g : RegFile) (x : Index) : IndexSrc → Byte
  | .b => g.view .b
  | .c => g.view .c
  | .d => g.view .d
  | .e => g.view .e
  | .xyh => (g.xy x).extractLsb' 8 8
  | .xyl => (g.xy x).extractLsb' 0 8
  | .a => g.view .a

/-- The pairs of `ADD XY,rp` in a register file (R353). -/
def RegFile.addend (g : RegFile) (x : Index) : IndexPair → Word
  | .bc => g.bc
  | .de => g.de
  | .xy => g.xy x
  | .sp => g.sp

/-! ## Closed forms of results and flags -/

/-- The flag byte with these bits, S first (R37). -/
def flagByte (s z x5 h x3 pv n c : Bool) : Byte :=
  flagIf s flagS ||| flagIf z flagZ ||| flagIf x5 flagX5 ||| flagIf h flagH ||| flagIf x3 flagX3
    ||| flagIf pv flagPV ||| flagIf n flagN ||| flagIf c flagC

/-- How many bits of a byte are 1. -/
def ones (v : Byte) : Nat := ((List.range 8).filter fun k => v.getLsbD k).length

/-- An even number of 1 bits (R171). -/
def even (v : Byte) : Bool := ones v % 2 == 0

/-- S, Z, X5, X3 from the result `r`, parity in PV, H and C as given, N = 0. -/
def logicFlags (r : Byte) (h c : Bool) : Byte :=
  flagByte r.msb (r == 0) (r.getLsbD 5) h (r.getLsbD 3) (even r) false c

/-- `a + b + c` (R176). -/
def sumOf (a b : Byte) (c : Bool) : Byte := BitVec.ofNat 8 (a.toNat + b.toNat + c.toNat)

/-- `a - b - c` (R177). -/
def diffOf (a b : Byte) (c : Bool) : Byte := a - b - BitVec.ofNat 8 c.toNat

/-- The flags of `a + b + c` (R175, R176). -/
def addFlags (a b : Byte) (c : Bool) : Byte :=
  let r := sumOf a b c
  flagByte r.msb (r == 0) (r.getLsbD 5) ((a ^^^ b ^^^ r).getLsbD 4) (r.getLsbD 3)
    (a.msb == b.msb && r.msb != a.msb) false (decide (256 ≤ a.toNat + b.toNat + c.toNat))

/-- The flags of `a - b - c`, X5 and X3 from the byte `x` (R175, R177, R178). -/
def subFlags (a b : Byte) (c : Bool) (x : Byte) : Byte :=
  let r := diffOf a b c
  flagByte r.msb (r == 0) (x.getLsbD 5) ((a ^^^ b ^^^ r).getLsbD 4) (x.getLsbD 3)
    (a.msb != b.msb && r.msb != a.msb) true (decide (a.toNat < b.toNat + c.toNat))

/-- The eight accumulator operations (R128). -/
inductive AluOp where
  | add | adc | sub | sbc | and | xor | or | cp
deriving DecidableEq, Repr

/-- The new A and the new F of an accumulator operation on A, the operand and the old carry (R290 to R297). -/
def AluOp.spec (op : AluOp) (a v : Byte) (c : Bool) : Byte × Byte :=
  match op with
  | .add => (sumOf a v false, addFlags a v false)
  | .adc => (sumOf a v c, addFlags a v c)
  | .sub => (diffOf a v false, subFlags a v false (diffOf a v false))
  | .sbc => (diffOf a v c, subFlags a v c (diffOf a v c))
  | .and => (a &&& v, logicFlags (a &&& v) true false)
  | .xor => (a ^^^ v, logicFlags (a ^^^ v) false false)
  | .or => (a ||| v, logicFlags (a ||| v) false false)
  | .cp => (a, subFlags a v false v)

/-- The instruction with a register (R298). -/
def AluOp.reg (op : AluOp) (r : Reg8) : Instr :=
  match op with
  | .add => .addAR r
  | .adc => .adcAR r
  | .sub => .subR r
  | .sbc => .sbcAR r
  | .and => .andR r
  | .xor => .xorR r
  | .or => .orR r
  | .cp => .cpR r

/-- The instruction with `(HL)` (R298). -/
def AluOp.indHl (op : AluOp) : Instr :=
  match op with
  | .add => .addAIndHl
  | .adc => .adcAIndHl
  | .sub => .subIndHl
  | .sbc => .sbcAIndHl
  | .and => .andIndHl
  | .xor => .xorIndHl
  | .or => .orIndHl
  | .cp => .cpIndHl

/-- The instruction with an immediate (R298). -/
def AluOp.imm (op : AluOp) (n : Byte) : Instr :=
  match op with
  | .add => .addAN n
  | .adc => .adcAN n
  | .sub => .subN n
  | .sbc => .sbcAN n
  | .and => .andN n
  | .xor => .xorN n
  | .or => .orN n
  | .cp => .cpN n

/-- The instruction with XYH (R298). -/
def AluOp.indexHigh (op : AluOp) (x : Index) : Instr :=
  match op with
  | .add => .addAXYH x
  | .adc => .adcAXYH x
  | .sub => .subXYH x
  | .sbc => .sbcAXYH x
  | .and => .andXYH x
  | .xor => .xorXYH x
  | .or => .orXYH x
  | .cp => .cpXYH x

/-- The instruction with XYL (R298). -/
def AluOp.indexLow (op : AluOp) (x : Index) : Instr :=
  match op with
  | .add => .addAXYL x
  | .adc => .adcAXYL x
  | .sub => .subXYL x
  | .sbc => .sbcAXYL x
  | .and => .andXYL x
  | .xor => .xorXYL x
  | .or => .orXYL x
  | .cp => .cpXYL x

/-- The instruction with `(XY+d)` (R298). -/
def AluOp.indexed (op : AluOp) (x : Index) (d : Byte) : Instr :=
  match op with
  | .add => .addAIndXY x d
  | .adc => .adcAIndXY x d
  | .sub => .subIndXY x d
  | .sbc => .sbcAIndXY x d
  | .and => .andIndXY x d
  | .xor => .xorIndXY x d
  | .or => .orIndXY x d
  | .cp => .cpIndXY x d

/-- INC or DEC. -/
inductive IncOp where
  | inc | dec
deriving DecidableEq, Repr

/-- The result of INC or DEC on a byte (R181, R182). -/
def IncOp.result (op : IncOp) (v : Byte) : Byte :=
  match op with
  | .inc => BitVec.ofNat 8 (v.toNat + 1)
  | .dec => BitVec.ofNat 8 (v.toNat + 255)

/-- The flags of INC or DEC on a byte, from the old flags (R181, R182). -/
def IncOp.flags (op : IncOp) (v f : Byte) : Byte :=
  let r := op.result v
  match op with
  | .inc => flagByte r.msb (r == 0) (r.getLsbD 5) (r.toNat % 16 == 0) (r.getLsbD 3) (v == 0x7F) false (f.getLsbD 0)
  | .dec => flagByte r.msb (r == 0) (r.getLsbD 5) (v.toNat % 16 == 0) (r.getLsbD 3) (v == 0x80) true (f.getLsbD 0)

/-- The instruction on a register (R300, R303). -/
def IncOp.reg (op : IncOp) (r : Reg8) : Instr :=
  match op with
  | .inc => .incR r
  | .dec => .decR r

/-- The instruction on `(HL)` (R301, R304). -/
def IncOp.indHl (op : IncOp) : Instr :=
  match op with
  | .inc => .incIndHl
  | .dec => .decIndHl

/-- The instruction on XYH (R302, R305). -/
def IncOp.indexHigh (op : IncOp) (x : Index) : Instr :=
  match op with
  | .inc => .incXYH x
  | .dec => .decXYH x

/-- The instruction on XYL (R302, R305). -/
def IncOp.indexLow (op : IncOp) (x : Index) : Instr :=
  match op with
  | .inc => .incXYL x
  | .dec => .decXYL x

/-- The instruction on `(XY+d)` (R306, R307). -/
def IncOp.indexed (op : IncOp) (x : Index) (d : Byte) : Instr :=
  match op with
  | .inc => .incIndXY x d
  | .dec => .decIndXY x d

/-- The eight rotates and shifts (R128). -/
inductive RotOp where
  | rlc | rrc | rl | rr | sla | sra | sll | srl
deriving DecidableEq, Repr

/-- The result of a rotate or shift of `v` with the old carry `c` (R183). -/
def RotOp.result (op : RotOp) (v : Byte) (c : Bool) : Byte :=
  match op with
  | .rlc => v.rotateLeft 1
  | .rrc => v.rotateRight 1
  | .rl => BitVec.ofNat 8 (2 * v.toNat + c.toNat)
  | .rr => BitVec.ofNat 8 (v.toNat / 2 + 128 * c.toNat)
  | .sla => BitVec.ofNat 8 (2 * v.toNat)
  | .sra => v.sshiftRight 1
  | .sll => BitVec.ofNat 8 (2 * v.toNat + 1)
  | .srl => BitVec.ofNat 8 (v.toNat / 2)

/-- The bit shifted out: bit 7 to the left, bit 0 to the right (R183). -/
def RotOp.out (op : RotOp) (v : Byte) : Bool :=
  match op with
  | .rlc => v.msb
  | .rrc => v.getLsbD 0
  | .rl => v.msb
  | .rr => v.getLsbD 0
  | .sla => v.msb
  | .sra => v.getLsbD 0
  | .sll => v.msb
  | .srl => v.getLsbD 0

/-- The flags of a rotate or shift (R183). -/
def RotOp.flags (op : RotOp) (v : Byte) (c : Bool) : Byte := logicFlags (op.result v c) false (op.out v)

/-- The instruction on a register (R374). -/
def RotOp.reg (op : RotOp) (r : Reg8) : Instr :=
  match op with
  | .rlc => .rlcR r
  | .rrc => .rrcR r
  | .rl => .rlR r
  | .rr => .rrR r
  | .sla => .slaR r
  | .sra => .sraR r
  | .sll => .sllR r
  | .srl => .srlR r

/-- The instruction on `(HL)` (R374). -/
def RotOp.indHl (op : RotOp) : Instr :=
  match op with
  | .rlc => .rlcIndHl
  | .rrc => .rrcIndHl
  | .rl => .rlIndHl
  | .rr => .rrIndHl
  | .sla => .slaIndHl
  | .sra => .sraIndHl
  | .sll => .sllIndHl
  | .srl => .srlIndHl

/-- The instruction on `(XY+d)` (R374). -/
def RotOp.indexed (op : RotOp) (x : Index) (d : Byte) : Instr :=
  match op with
  | .rlc => .rlcIndXY x d
  | .rrc => .rrcIndXY x d
  | .rl => .rlIndXY x d
  | .rr => .rrIndXY x d
  | .sla => .slaIndXY x d
  | .sra => .sraIndXY x d
  | .sll => .sllIndXY x d
  | .srl => .srlIndXY x d

/-- The instruction on `(XY+d)` with register copy (R374). -/
def RotOp.indexedCopy (op : RotOp) (x : Index) (d : Byte) (r : Reg8) : Instr :=
  match op with
  | .rlc => .rlcIndXYR x d r
  | .rrc => .rrcIndXYR x d r
  | .rl => .rlIndXYR x d r
  | .rr => .rrIndXYR x d r
  | .sla => .slaIndXYR x d r
  | .sra => .sraIndXYR x d r
  | .sll => .sllIndXYR x d r
  | .srl => .srlIndXYR x d r

/-- The flags of the accumulator rotates: S, Z and PV from the old flags `f` (R370 to R373). -/
def accFlags (r f : Byte) (c : Bool) : Byte :=
  flagByte (f.getLsbD 7) (f.getLsbD 6) (r.getLsbD 5) false (r.getLsbD 3) (f.getLsbD 2) false c

/-- The flags of testing bit `b` of `v`, X5 and X3 from the byte `x` (R184). -/
def testFlags (b : BitVec 3) (v x f : Byte) : Byte :=
  let one := v.getLsbD b.toNat
  flagByte (b == 7 && one) (!one) (x.getLsbD 5) true (x.getLsbD 3) (!one) false (f.getLsbD 0)

/-- `v` with bit `b` at 0 (R389). -/
def bitOff (b : BitVec 3) (v : Byte) : Byte :=
  if v.getLsbD b.toNat then BitVec.ofNat 8 (v.toNat - 2 ^ b.toNat) else v

/-- `v` with bit `b` at 1 (R391). -/
def bitOn (b : BitVec 3) (v : Byte) : Byte :=
  if v.getLsbD b.toNat then v else BitVec.ofNat 8 (v.toNat + 2 ^ b.toNat)

/-- The flags of ADD HL,rp and ADD XY,rp: S, Z and PV from the old flags `f` (R175, R185). -/
def addFlags16 (a b : Word) (f : Byte) : Byte :=
  let r := a + b
  flagByte (f.getLsbD 7) (f.getLsbD 6) (r.getLsbD 13) ((a ^^^ b ^^^ r).getLsbD 12) (r.getLsbD 11) (f.getLsbD 2)
    false (decide (65536 ≤ a.toNat + b.toNat))

/-- `a + b + c` (R186). -/
def sumOf16 (a b : Word) (c : Bool) : Word := BitVec.ofNat 16 (a.toNat + b.toNat + c.toNat)

/-- `a - b - c` (R186). -/
def diffOf16 (a b : Word) (c : Bool) : Word := a - b - BitVec.ofNat 16 c.toNat

/-- The flags of ADC HL,rp (R175, R186). -/
def adcFlags16 (a b : Word) (c : Bool) : Byte :=
  let r := sumOf16 a b c
  flagByte r.msb (r == 0) (r.getLsbD 13) ((a ^^^ b ^^^ r).getLsbD 12) (r.getLsbD 11)
    (a.msb == b.msb && r.msb != a.msb) false (decide (65536 ≤ a.toNat + b.toNat + c.toNat))

/-- The flags of SBC HL,rp (R175, R186). -/
def sbcFlags16 (a b : Word) (c : Bool) : Byte :=
  let r := diffOf16 a b c
  flagByte r.msb (r == 0) (r.getLsbD 13) ((a ^^^ b ^^^ r).getLsbD 12) (r.getLsbD 11)
    (a.msb != b.msb && r.msb != a.msb) true (decide (a.toNat < b.toNat + c.toNat))

/-- The new A and the new F of DAA (R320). -/
def daaSpec (a f : Byte) : Byte × Byte :=
  let low := f.getLsbD 4 || decide (9 < a.toNat % 16)
  let high := f.getLsbD 0 || decide (0x99 < a.toNat)
  let k : Byte := BitVec.ofNat 8 ((if low then 6 else 0) + (if high then 96 else 0))
  let r := if f.getLsbD 1 then a - k else a + k
  (r, flagByte r.msb (r == 0) (r.getLsbD 5) ((a ^^^ k ^^^ r).getLsbD 4) (r.getLsbD 3) (even r) (f.getLsbD 1) high)

/-- The flags of a byte read into a register: S, Z, X5, X3 and parity from it, C kept (R393, R394, R432, R433). -/
def readFlags (v f : Byte) : Byte := logicFlags v false (f.getLsbD 0)

/-- The flags of LDI and LDD: `left` whether BC is not 0 after the decrement (R265, R266). -/
def copyFlags (a v f : Byte) (left : Bool) : Byte :=
  flagByte (f.getLsbD 7) (f.getLsbD 6) ((a + v).getLsbD 1) false ((a + v).getLsbD 3) left false (f.getLsbD 0)

/-- The flags of CPI and CPD: `left` whether BC is not 0 after the decrement (R269, R270). -/
def searchFlags (a v f : Byte) (left : Bool) : Byte :=
  let r := a - v
  let h := (a ^^^ v ^^^ r).getLsbD 4
  let n := r - BitVec.ofNat 8 h.toNat
  flagByte r.msb (r == 0) (n.getLsbD 1) h (n.getLsbD 3) left true (f.getLsbD 0)

/-- The flags of the block I/O instructions: the byte, the addend, and B after the decrement (R436 to R441). -/
def portFlags (v addend b : Byte) : Byte :=
  let k := v.toNat + addend.toNat
  flagByte b.msb (b == 0) (b.getLsbD 5) (decide (255 < k)) (b.getLsbD 3) (even (BitVec.ofNat 8 (k % 8) ^^^ b)) v.msb
    (decide (255 < k))

end Sys2Proof.Machine

namespace Sys2Proof

open Sys2Proof.Machine

/-! ## Formats -/

/-- The units of a format's fetches: 4 for an opcode byte, 3 for an operand byte (R121 to R124). -/
def Format.units (f : Format) : Nat := (f.fetches.map fun k => if k = .op then 4 else 3).sum

/-- The M1 fetches of a format, each of which counts R up (R121). -/
def Format.refreshes (f : Format) : Nat := f.fetches.count .op

/-! ## Classes of instructions -/

/-- The five router rows (R131). -/
def Instr.isRouter : Instr → Bool
  | .prefixCB => true
  | .prefixDD => true
  | .prefixFD => true
  | .prefixED => true
  | .prefixXYCB _ => true
  | _ => false

/-- The undocumented rows (R137): those opcode_table.json flags so, the two unassigned rows apart. -/
def Instr.undocumented : Instr → Bool
  | .sllR _ => true
  | .sllIndHl => true
  | .inFIndC => true
  | .outIndC0 => true
  | .negAlias _ => true
  | .retnAlias _ => true
  | .im0Alias _ => true
  | .im1Alias => true
  | .im2Alias => true
  | .incXYH _ => true
  | .incXYL _ => true
  | .decXYH _ => true
  | .decXYL _ => true
  | .ldXYHN _ _ => true
  | .ldXYLN _ _ => true
  | .ldRXYH _ _ => true
  | .ldRXYL _ _ => true
  | .ldXYHR _ _ => true
  | .ldXYLR _ _ => true
  | .addAXYH _ => true
  | .addAXYL _ => true
  | .adcAXYH _ => true
  | .adcAXYL _ => true
  | .subXYH _ => true
  | .subXYL _ => true
  | .sbcAXYH _ => true
  | .sbcAXYL _ => true
  | .andXYH _ => true
  | .andXYL _ => true
  | .xorXYH _ => true
  | .xorXYL _ => true
  | .orXYH _ => true
  | .orXYL _ => true
  | .cpXYH _ => true
  | .cpXYL _ => true
  | .rlcIndXYR _ _ _ => true
  | .rrcIndXYR _ _ _ => true
  | .rlIndXYR _ _ _ => true
  | .rrIndXYR _ _ _ => true
  | .slaIndXYR _ _ _ => true
  | .sraIndXYR _ _ _ => true
  | .sllIndXY _ _ => true
  | .sllIndXYR _ _ _ => true
  | .srlIndXYR _ _ _ => true
  | .bitIndXYAlias _ _ _ _ => true
  | .resIndXYR _ _ _ _ => true
  | .setIndXYR _ _ _ _ => true
  | _ => false

/-- The units of the whole instruction, its fetches included, as its rule's Timing line gives them (R512); `s` is
the state before its effect. The forms that depend on it are a jump, call or return with a condition, DJNZ and the
repeating block instructions. A router row has no total of its own; an unassigned one is the soft path (R470). -/
def Instr.units (i : Instr) (s : State) : Nat :=
  match i with
  | .nop => 4
  | .ldRpNn _ _ => 10
  | .ldIndBcA => 7
  | .ldIndDeA => 7
  | .ldAIndBc => 7
  | .ldAIndDe => 7
  | .incRp _ => 6
  | .decRp _ => 6
  | .incR _ => 4
  | .incIndHl => 11
  | .decR _ => 4
  | .decIndHl => 11
  | .ldRN _ _ => 7
  | .ldIndHlN _ => 10
  | .rlca => 4
  | .rrca => 4
  | .rla => 4
  | .rra => 4
  | .exAfAf => 4
  | .addHlRp _ => 11
  | .djnz _ => if s.regB = 1 then 8 else 13
  | .jr _ => 12
  | .jrCc cc _ => if cc.toCond.holds s.regF then 12 else 7
  | .ldIndNnHl _ => 16
  | .ldHlIndNn _ => 16
  | .ldIndNnA _ => 13
  | .ldAIndNn _ => 13
  | .daa => 4
  | .cpl => 4
  | .scf => 4
  | .ccf => 4
  | .ldRR _ _ => 4
  | .ldRIndHl _ => 7
  | .ldIndHlR _ => 7
  | .halt => 4
  | .addAR _ => 4
  | .addAIndHl => 7
  | .adcAR _ => 4
  | .adcAIndHl => 7
  | .subR _ => 4
  | .subIndHl => 7
  | .sbcAR _ => 4
  | .sbcAIndHl => 7
  | .andR _ => 4
  | .andIndHl => 7
  | .xorR _ => 4
  | .xorIndHl => 7
  | .orR _ => 4
  | .orIndHl => 7
  | .cpR _ => 4
  | .cpIndHl => 7
  | .addAN _ => 7
  | .adcAN _ => 7
  | .subN _ => 7
  | .sbcAN _ => 7
  | .andN _ => 7
  | .xorN _ => 7
  | .orN _ => 7
  | .cpN _ => 7
  | .retCc cc => if cc.holds s.regF then 11 else 5
  | .popRp2 _ => 10
  | .jpCcNn _ _ => 10
  | .jpNn _ => 10
  | .callCcNn cc _ => if cc.holds s.regF then 17 else 10
  | .pushRp2 _ => 11
  | .rst _ => 11
  | .ret => 10
  | .prefixCB => 0
  | .callNn _ => 17
  | .outIndNA _ => 11
  | .inAIndN _ => 11
  | .exx => 4
  | .prefixDD => 0
  | .prefixFD => 0
  | .exIndSpHl => 19
  | .jpIndHl => 4
  | .exDeHl => 4
  | .prefixED => 0
  | .di => 4
  | .ei => 4
  | .ldSpHl => 6
  | .rlcR _ => 8
  | .rlcIndHl => 15
  | .rrcR _ => 8
  | .rrcIndHl => 15
  | .rlR _ => 8
  | .rlIndHl => 15
  | .rrR _ => 8
  | .rrIndHl => 15
  | .slaR _ => 8
  | .slaIndHl => 15
  | .sraR _ => 8
  | .sraIndHl => 15
  | .sllR _ => 8
  | .sllIndHl => 15
  | .srlR _ => 8
  | .srlIndHl => 15
  | .bitR _ _ => 8
  | .bitIndHl _ => 12
  | .resR _ _ => 8
  | .resIndHl _ => 15
  | .setR _ _ => 8
  | .setIndHl _ => 15
  | .inRIndC _ => 12
  | .inFIndC => 12
  | .outIndCR _ => 12
  | .outIndC0 => 12
  | .sbcHlRp _ => 15
  | .adcHlRp _ => 15
  | .ldIndNnRp _ _ => 20
  | .ldRpIndNn _ _ => 20
  | .neg => 8
  | .negAlias _ => 8
  | .retn => 14
  | .reti => 14
  | .retnAlias _ => 14
  | .im0 => 8
  | .im0Alias _ => 8
  | .im1 => 8
  | .im1Alias => 8
  | .im2 => 8
  | .im2Alias => 8
  | .ldIA => 9
  | .ldRA => 9
  | .ldAI => 9
  | .ldAR => 9
  | .rrd => 18
  | .rld => 18
  | .ldi => 16
  | .cpi => 16
  | .ini => 16
  | .outi => 16
  | .ldd => 16
  | .cpd => 16
  | .ind => 16
  | .outd => 16
  | .ldir => if s.regs.bc = 1 then 16 else 21
  | .cpir => if s.regs.bc = 1 ∨ s.regA = s.byteAt s.regs.hl then 16 else 21
  | .inir => if s.regB = 1 then 16 else 21
  | .otir => if s.regB = 1 then 16 else 21
  | .lddr => if s.regs.bc = 1 then 16 else 21
  | .cpdr => if s.regs.bc = 1 ∨ s.regA = s.byteAt s.regs.hl then 16 else 21
  | .indr => if s.regB = 1 then 16 else 21
  | .otdr => if s.regB = 1 then 16 else 21
  | .addXYRp _ _ => 15
  | .ldXYNn _ _ => 14
  | .ldIndNnXY _ _ => 20
  | .ldXYIndNn _ _ => 20
  | .incXY _ => 10
  | .decXY _ => 10
  | .incXYH _ => 8
  | .incXYL _ => 8
  | .decXYH _ => 8
  | .decXYL _ => 8
  | .ldXYHN _ _ => 11
  | .ldXYLN _ _ => 11
  | .incIndXY _ _ => 23
  | .decIndXY _ _ => 23
  | .ldIndXYN _ _ _ => 19
  | .ldRXYH _ _ => 8
  | .ldRXYL _ _ => 8
  | .ldXYHR _ _ => 8
  | .ldXYLR _ _ => 8
  | .ldRIndXY _ _ _ => 19
  | .ldIndXYR _ _ _ => 19
  | .ldIndXYRegH _ _ => 19
  | .ldIndXYRegL _ _ => 19
  | .addAXYH _ => 8
  | .addAXYL _ => 8
  | .addAIndXY _ _ => 19
  | .adcAXYH _ => 8
  | .adcAXYL _ => 8
  | .adcAIndXY _ _ => 19
  | .subXYH _ => 8
  | .subXYL _ => 8
  | .subIndXY _ _ => 19
  | .sbcAXYH _ => 8
  | .sbcAXYL _ => 8
  | .sbcAIndXY _ _ => 19
  | .andXYH _ => 8
  | .andXYL _ => 8
  | .andIndXY _ _ => 19
  | .xorXYH _ => 8
  | .xorXYL _ => 8
  | .xorIndXY _ _ => 19
  | .orXYH _ => 8
  | .orXYL _ => 8
  | .orIndXY _ _ => 19
  | .cpXYH _ => 8
  | .cpXYL _ => 8
  | .cpIndXY _ _ => 19
  | .popXY _ => 14
  | .pushXY _ => 15
  | .exIndSpXY _ => 23
  | .jpIndXY _ => 8
  | .ldSpXY _ => 10
  | .prefixXYCB _ => 0
  | .rlcIndXY _ _ => 23
  | .rlcIndXYR _ _ _ => 23
  | .rrcIndXY _ _ => 23
  | .rrcIndXYR _ _ _ => 23
  | .rlIndXY _ _ => 23
  | .rlIndXYR _ _ _ => 23
  | .rrIndXY _ _ => 23
  | .rrIndXYR _ _ _ => 23
  | .slaIndXY _ _ => 23
  | .slaIndXYR _ _ _ => 23
  | .sraIndXY _ _ => 23
  | .sraIndXYR _ _ _ => 23
  | .sllIndXY _ _ => 23
  | .sllIndXYR _ _ _ => 23
  | .srlIndXY _ _ => 23
  | .srlIndXYR _ _ _ => 23
  | .bitIndXY _ _ _ => 20
  | .bitIndXYAlias _ _ _ _ => 20
  | .resIndXY _ _ _ => 23
  | .resIndXYR _ _ _ _ => 23
  | .setIndXY _ _ _ => 23
  | .setIndXYR _ _ _ _ => 23
  | .unassignedED _ => 8
  | .unassignedXY _ _ => 8

end Sys2Proof
end

