-- ==== Sys2Proof/Certificates/Slice0/Obligations.lean ====
section
/-!
DEFINITION. The statements for the provers. Each is made of exec or step of the machine and the terms of
Sys2Proof.Safety. In a list of stores the first entry of an address counts; events stand oldest first.
-/

open Sys2Proof Sys2Proof.Machine

/-- For every well-formed instruction that is not one of the five router rows, with every operand at every value,
and every list of bytes after it: decoding its encoding followed by those bytes gives the instruction and those
bytes. The router rows (a lead-in alone) decode from their own bytes when nothing follows. (R126, R132, R139,
R141, R142, R145, R146) -/
def Obligations.DecodeOfEncodeIsTheInstruction : Prop :=
  (∀ (i : Instr) (rest : List Byte), i.wellFormed = true → i.isRouter = false →
    decode (encode i ++ rest) = .ok (i, rest))
  ∧ (∀ i : Instr, i.isRouter = true → decode (encode i) = .ok (i, []))

/-- For every list of bytes that decodes to an instruction and a rest: the instruction is well-formed and its
encoding followed by the rest is the list. So no bit of an encoding is ignored but those the instruction
records, and no ill-formed term is ever decoded. (R132, R135, R136, R139, R145, R149) -/
def Obligations.EncodeOfDecodeIsTheBytes : Prop :=
  ∀ (l : List Byte) (i : Instr) (rest : List Byte), decode l = .ok (i, rest) →
    i.wellFormed = true ∧ encode i ++ rest = l

/-- Every list of at least four bytes decodes, and the instruction takes between one and four of them. An
instruction has as many bytes as its format has fetches. (R132, R134, R135) -/
def Obligations.EveryFourBytesHoldAnInstruction : Prop :=
  ∀ l : List Byte, 4 ≤ l.length →
    ∃ i rest, decode l = .ok (i, rest) ∧ 1 ≤ i.length ∧ i.length ≤ 4 ∧ rest.length = l.length - i.length

/-- Nine byte sequences that the spec writes out (LD A,n 3E 42; CALL 0x1234; LD H,(IX+d) DD 66; LD (IX+d),n; SBC
HL,BC; RETI; BIT 7,(IX+1); SRL (IX+1) with copy to B; ED 00) decode to those instructions. (R139, R141, R142,
R145, R146) -/
def Obligations.WordsOfTheSpecDecode : Prop :=
  decode [0x3E, 0x42] = .ok (.ldRN .a 0x42, [])
  ∧ decode [0xCD, 0x34, 0x12] = .ok (.callNn 0x1234, [])
  ∧ decode [0xDD, 0x66, 0x80] = .ok (.ldRIndXY .h .ix 0x80, [])
  ∧ decode [0xDD, 0x36, 0xFF, 0x77] = .ok (.ldIndXYN .ix 0xFF 0x77, [])
  ∧ decode [0xED, 0x42] = .ok (.sbcHlRp .bc, [])
  ∧ decode [0xED, 0x4D] = .ok (.reti, [])
  ∧ decode [0xDD, 0xCB, 0x01, 0x7E] = .ok (.bitIndXY 7 .ix 0x01, [])
  ∧ decode [0xDD, 0xCB, 0x01, 0x38] = .ok (.srlIndXYR .ix 0x01 .b, [])
  ∧ decode [0xED, 0x00] = .ok (.unassignedED 0x00, [])

/-- The eight condition codes test Z, C, PV and S of F, each clear for the even code and set for the odd one, and
the four JR codes are the first four of them. (R49) -/
def Obligations.ConditionCodesReadF : Prop :=
  (∀ f : Byte,
    (Cond.ofCode 0).holds f = !f.getLsbD 6 ∧ (Cond.ofCode 1).holds f = f.getLsbD 6
    ∧ (Cond.ofCode 2).holds f = !f.getLsbD 0 ∧ (Cond.ofCode 3).holds f = f.getLsbD 0
    ∧ (Cond.ofCode 4).holds f = !f.getLsbD 2 ∧ (Cond.ofCode 5).holds f = f.getLsbD 2
    ∧ (Cond.ofCode 6).holds f = !f.getLsbD 7 ∧ (Cond.ofCode 7).holds f = f.getLsbD 7)
  ∧ ∀ k : BitVec 2, (JrCond.ofCode k).toCond = Cond.ofCode (k.setWidth 3)

/-- When the next call of the host is step(), the step of the machine is exec of the instruction that stands at PC,
in the state after its bytes are fetched, with eiLast cleared first and that call taken off the schedule. When
the schedule is empty the call is step() (log entry 6). (R120, R461, R513) -/
def Obligations.StepRunsTheDecodedInstruction : Prop :=
  ∀ s : State, s.nextCall = .step →
    step s = exec (s.decodeAfter [])
      ({ s with schedule := s.schedule.tail, eiLast := false }.fetchAfter [] (s.decodeAfter []))

/-- For every instruction and every state: after its fetches PC has moved by its length (mod 65536), R by the number
of its M1 fetches (mod 128), R7 and every other register are unchanged, no byte of memory has changed, and
nothing else of the state but the trace has changed. The trace gains, for each byte in order, a charge of 4 (M1
fetch) or 3 (operand fetch) and then the read of the byte at PC, PC + 1 and so on (wrapping); so the units
charged are 4 for each M1 fetch and 3 for each operand fetch. (R36, R43, R84, R121, R122, R124) -/
def Obligations.FetchingAnInstruction : Prop :=
  ∀ (s : State) (i : Instr),
    Leaves (.next (s.fetchAfter [] i)) s
      (· = { s.regs with
        pc := s.regs.pc + BitVec.ofNat 16 i.length, r := s.regs.r + BitVec.ofNat 7 i.format.refreshes }) []
      (s.fetchEvents s.regs.pc i.format.fetches)
    ∧ unitsOf (s.fetchEvents s.regs.pc i.format.fetches) = i.format.units

/-- For every well-formed instruction that is no router row and every state whose bytes from PC upward (addresses
wrapping) are its encoding, the instruction decoded at PC is that instruction. (R36, R99, R131) -/
def Obligations.BytesAtPcAreTheInstruction : Prop :=
  ∀ (s : State) (i : Instr), i.wellFormed = true → i.isRouter = false →
    (∀ k, k < i.length → (encode i)[k]? = some (s.byteAt (s.regs.pc + BitVec.ofNat 16 k))) →
    s.decodeAfter [] = i

/-- When the next call of the host is reset(), the step answers a next state with every register-file field 0 eiLast
0 (R461, R500), that call taken off the schedule, and memory, trace (which holds the timing total and the port
events), parameters and port answers unchanged; a freshly constructed core has the same register file. (R50) -/
def Obligations.HostResetZeroesTheRegisterFile : Prop :=
  (∀ (s : State) (rest : List HostCall), s.schedule = .reset :: rest →
    ∃ t, step s = .next t
      ∧ t.regs = { af := 0, bc := 0, de := 0, hl := 0, afAlt := 0, bcAlt := 0, deAlt := 0, hlAlt := 0
                   ix := 0, iy := 0, sp := 0, pc := 0, memptr := 0, i := 0, r := 0, r7 := false
                   iff1 := false, iff2 := false, im := .im0, halted := false }
      ∧ t.mem = s.mem ∧ t.trace = s.trace ∧ t.portQueue = s.portQueue ∧ t.draws = s.draws ∧ t.params = s.params
      ∧ t.units = s.units ∧ t.eiLast = false ∧ t.schedule = rest)
  ∧ State.reset.regs = { af := 0, bc := 0, de := 0, hl := 0, afAlt := 0, bcAlt := 0, deAlt := 0, hlAlt := 0
                         ix := 0, iy := 0, sp := 0, pc := 0, memptr := 0, i := 0, r := 0, r7 := false
                         iff1 := false, iff2 := false, im := .im0, halted := false }

/-- A scheduled call of the host is what the step makes. A host write of a pair, of an 8-bit view, of I, of R (bits
6 to 0 of a byte), of R7, IFF1, IFF2 or halted (0 or 1) or of IM (0, 1 or 2) sets it to the value and changes
nothing else of the state. A value too large for its field is refused: of IM by R44 and R47, of R and R7 by log
entry 13, of any other field by log entry 12 (D26, R513), which are the model's reading. A change of a byte of
memory by the host itself is that byte alone, in ROM_SET too, and no event (log entry 21, the model's choice).
(R32, R44, R47, R101, R326, R513) -/
def Obligations.HostFieldWrites : Prop :=
  (∀ (s : State) (c : HostCall) (rest : List HostCall), s.schedule = c :: rest →
    step s = hostCall cpuStep c { s with schedule := rest })
  ∧ (∀ (s : State) (v : Word), ∀ p ∈ [
        (HostField.af, { s.regs with af := v }), (.bc, { s.regs with bc := v }), (.de, { s.regs with de := v }),
        (.hl, { s.regs with hl := v }), (.afAlt, { s.regs with afAlt := v }), (.bcAlt, { s.regs with bcAlt := v }),
        (.deAlt, { s.regs with deAlt := v }), (.hlAlt, { s.regs with hlAlt := v }), (.ix, { s.regs with ix := v }),
        (.iy, { s.regs with iy := v }), (.sp, { s.regs with sp := v }), (.pc, { s.regs with pc := v }),
        (.memptr, { s.regs with memptr := v })],
      Leaves (hostCall cpuStep (.writeField p.1 v.toNat) s) s (· = p.2) [] [])
  ∧ (∀ (s : State) (v : Byte), ∀ p ∈ [
        (HostField.a, s.regs.withAF v s.regs.f), (.f, s.regs.withAF (s.regs.view .a) v),
        (.b, { s.regs with bc := v ++ s.regs.view .c }), (.c, { s.regs with bc := s.regs.view .b ++ v }),
        (.d, { s.regs with de := v ++ s.regs.view .e }), (.e, { s.regs with de := s.regs.view .d ++ v }),
        (.h, { s.regs with hl := v ++ s.regs.view .l }), (.l, { s.regs with hl := s.regs.view .h ++ v }),
        (.ixh, { s.regs with ix := v ++ s.regs.ix.extractLsb' 0 8 }),
        (.ixl, { s.regs with ix := s.regs.ix.extractLsb' 8 8 ++ v }),
        (.iyh, { s.regs with iy := v ++ s.regs.iy.extractLsb' 0 8 }),
        (.iyl, { s.regs with iy := s.regs.iy.extractLsb' 8 8 ++ v }),
        (.i, { s.regs with i := v }), (.r, { s.regs with r := v.setWidth 7 })],
      Leaves (hostCall cpuStep (.writeField p.1 v.toNat) s) s (· = p.2) [] [])
  ∧ (∀ (s : State) (v : Bool), ∀ p ∈ [
        (HostField.r7, { s.regs with r7 := v }), (.iff1, { s.regs with iff1 := v }),
        (.iff2, { s.regs with iff2 := v }), (.halted, { s.regs with halted := v })],
      Leaves (hostCall cpuStep (.writeField p.1 v.toNat) s) s (· = p.2) [] [])
  ∧ (∀ s : State, ∀ p ∈ [(0, IntMode.im0), (1, .im1), (2, .im2)],
      Leaves (hostCall cpuStep (.writeField .im p.1) s) s (· = { s.regs with im := p.2 }) [] [])
  ∧ (∀ (s : State) (v : Nat), 2 < v → hostCall cpuStep (.writeField .im v) s = .refused (.hostWrite .im v))
  ∧ (∀ (s : State) (fld : HostField) (v : Nat), hostFieldBound fld ≤ v →
    hostCall cpuStep (.writeField fld v) s = .refused (.hostWrite fld v))
  ∧ (∀ (s : State) (a : Word) (v : Byte), s.Inv →
    ∃ t, hostCall cpuStep (.pokeMemory a v) s = .next t ∧ t = { s with mem := t.mem }
      ∧ ∀ q : Word, t.byteAt q = if q = a then v else s.byteAt q)

/-- LD r,r' and LD r,n answer a next state in which the destination register holds the source (read before the
write) or n, every other 8-bit register, F and every other register are unchanged, no byte of memory changes and
there is no bus event beyond the fetches. (R32, R200, R201) -/
def Obligations.LoadRegister : Prop :=
  ∀ s : State,
    (∀ dst src, Leaves (exec (.ldRR dst src) s) s (Sets8 s.regs · dst (s.regs.view src)) [] [])
    ∧ (∀ r n, Leaves (exec (.ldRN r n) s) s (Sets8 s.regs · r n) [] [])

/-- LD r,(HL) and LD r,(XY+d) answer a next state in which the register holds the byte at HL or at XY + sext(d), the
address taken before the load (sext(d): d sign-extended to 16 bits, the sum mod 65536, stated for both index
registers); the indexed form also sets MEMPTR to that address and charges 5 units after its read. Every other
register, F and memory are unchanged. (R84, R88, R129, R202, R203) -/
def Obligations.LoadRegisterFromMemory : Prop :=
  ∀ s : State,
    (∀ x (d : Byte), s.ea x d = s.regs.xy x + d.signExtend 16)
    ∧ (∀ r, Leaves (exec (.ldRIndHl r) s) s (Sets8 s.regs · r (s.byteAt s.regs.hl)) [] (s.rd s.regs.hl))
    ∧ (∀ r x d, Leaves (exec (.ldRIndXY r x d) s) s
        (Sets8 { s.regs with memptr := s.ea x d } · r (s.byteAt (s.ea x d))) [] (s.rd (s.ea x d) ++ [.tick 5]))

/-- LD (HL),r, LD (HL),n, LD (XY+d),n and LD (XY+d),r (H and L themselves in the last) answer a next state in which
the byte at HL or at XY + sext(d) is the register or n, unless the host ignores the write (ROM_SET); every other
byte reads as before; no register changes but MEMPTR, set to the effective address in the indexed forms. The
memory is in canonical form (an invariant). (R84, R101, R204, R205, R206, R214) -/
def Obligations.StoreRegister : Prop :=
  ∀ s : State, s.Inv →
    (∀ r, Leaves (exec (.ldIndHlR r) s) s (· = s.regs) [(s.regs.hl, s.regs.view r)] (wr s.regs.hl (s.regs.view r)))
    ∧ (∀ n, Leaves (exec (.ldIndHlN n) s) s (· = s.regs) [(s.regs.hl, n)] (wr s.regs.hl n))
    ∧ (∀ x d n, Leaves (exec (.ldIndXYN x d n) s) s (· = { s.regs with memptr := s.ea x d }) [(s.ea x d, n)]
        (wr (s.ea x d) n ++ [.tick 2]))
    ∧ (∀ x d r, Leaves (exec (.ldIndXYR x d r) s) s (· = { s.regs with memptr := s.ea x d })
        [(s.ea x d, s.regs.view r)] (wr (s.ea x d) (s.regs.view r) ++ [.tick 5]))
    ∧ (∀ x d, Leaves (exec (.ldIndXYRegH x d) s) s (· = { s.regs with memptr := s.ea x d })
        [(s.ea x d, s.regs.view .h)] (wr (s.ea x d) (s.regs.view .h) ++ [.tick 5]))
    ∧ (∀ x d, Leaves (exec (.ldIndXYRegL x d) s) s (· = { s.regs with memptr := s.ea x d })
        [(s.ea x d, s.regs.view .l)] (wr (s.ea x d) (s.regs.view .l) ++ [.tick 5]))

/-- LD A,(BC), LD A,(DE) and LD A,(nn) load A from the address and set MEMPTR to it plus 1; LD (BC),A, LD (DE),A and
LD (nn),A store A at the address and set MEMPTR to A over the low byte of the address plus 1. Nothing else
changes. (R188, R210, R211, R212, R213) -/
def Obligations.LoadAndStoreAccumulator : Prop :=
  ∀ s : State, s.Inv →
    (∀ (i : Instr) (a : Word), (i, a) ∈ [(Instr.ldAIndBc, s.regs.bc), (.ldAIndDe, s.regs.de)] ∨ i = .ldAIndNn a →
      Leaves (exec i s) s (Sets8 { s.regs with memptr := a + 1 } · .a (s.byteAt a)) [] (s.rd a))
    ∧ (∀ (i : Instr) (a : Word), (i, a) ∈ [(Instr.ldIndBcA, s.regs.bc), (.ldIndDeA, s.regs.de)] ∨ i = .ldIndNnA a →
      Leaves (exec i s) s (· = { s.regs with memptr := s.regs.view .a ++ (a + 1).extractLsb' 0 8 })
        [(a, s.regs.view .a)] (wr a (s.regs.view .a)))

/-- With UNDOC_ADMIT = Admit, LD XYH,n, LD XYL,n, LD XYH,r and LD XYL,r set that half of the index register and keep
the other; LD r,XYH and LD r,XYL copy a half into a register. The other index register, the flags and memory are
unchanged. (R34, R137, R207, R208, R209) -/
def Obligations.LoadIndexHalves : Prop :=
  ∀ s : State, s.params.undocAdmit = .admitted →
    (∀ x n, Leaves (exec (.ldXYHN x n) s) s (SetsIndex s.regs · x (n ++ (s.regs.xy x).extractLsb' 0 8)) [] []
      ∧ Leaves (exec (.ldXYLN x n) s) s (SetsIndex s.regs · x ((s.regs.xy x).extractLsb' 8 8 ++ n)) [] [])
    ∧ (∀ r x, Leaves (exec (.ldRXYH r x) s) s (Sets8 s.regs · r ((s.regs.xy x).extractLsb' 8 8)) [] []
      ∧ Leaves (exec (.ldRXYL r x) s) s (Sets8 s.regs · r ((s.regs.xy x).extractLsb' 0 8)) [] [])
    ∧ (∀ x src, Leaves (exec (.ldXYHR x src) s) s
        (SetsIndex s.regs · x (s.regs.source x src ++ (s.regs.xy x).extractLsb' 0 8)) [] []
      ∧ Leaves (exec (.ldXYLR x src) s) s
        (SetsIndex s.regs · x ((s.regs.xy x).extractLsb' 8 8 ++ s.regs.source x src)) [] [])

/-- LD rp,nn and LD XY,nn load the pair or index register with nn; LD SP,HL and LD SP,XY load SP and charge 2 extra
units. No other register, no flag and no byte of memory changes. (R230, R231, R236, R239) -/
def Obligations.LoadPairs : Prop :=
  ∀ s : State,
    (∀ p nn, Leaves (exec (.ldRpNn p nn) s) s (Sets16 s.regs · p nn) [] [])
    ∧ (∀ x nn, Leaves (exec (.ldXYNn x nn) s) s (SetsIndex s.regs · x nn) [] [])
    ∧ Leaves (exec .ldSpHl s) s (· = { s.regs with sp := s.regs.hl }) [] [.tick 2]
    ∧ (∀ x, Leaves (exec (.ldSpXY x) s) s (· = { s.regs with sp := s.regs.xy x }) [] [.tick 2])

/-- The three forms load the pair with the byte at nn as low half and the byte at nn + 1 (wrapping) as high half,
read in that order, and set MEMPTR to nn + 1. Nothing else changes. (R85, R87, R232, R234, R237) -/
def Obligations.LoadPairsFromMemory : Prop :=
  ∀ (s : State) (nn : Word),
    Leaves (exec (.ldHlIndNn nn) s) s
      (Sets16 { s.regs with memptr := nn + 1 } · .hl (s.byteAt (nn + 1) ++ s.byteAt nn)) [] (s.rd nn ++ s.rd (nn + 1))
    ∧ (∀ p, Leaves (exec (.ldRpIndNn p nn) s) s
      (Sets16 { s.regs with memptr := nn + 1 } · p (s.byteAt (nn + 1) ++ s.byteAt nn)) [] (s.rd nn ++ s.rd (nn + 1)))
    ∧ (∀ x, Leaves (exec (.ldXYIndNn x nn) s) s
      (SetsIndex { s.regs with memptr := nn + 1 } · x (s.byteAt (nn + 1) ++ s.byteAt nn)) [] (s.rd nn ++ s.rd (nn + 1)))

/-- The three forms store the low byte of the pair at nn and then its high byte at nn + 1 (wrapping), and set MEMPTR
to nn + 1. Every other byte and register is unchanged. (R85, R87, R233, R235, R238) -/
def Obligations.StorePairs : Prop :=
  ∀ s : State, s.Inv → ∀ (nn : Word) (i : Instr) (w : Word),
    i = .ldIndNnHl nn ∧ w = s.regs.hl ∨ (∃ p, i = .ldIndNnRp nn p ∧ w = s.regs.rp p)
      ∨ (∃ x, i = .ldIndNnXY nn x ∧ w = s.regs.xy x) →
    Leaves (exec i s) s (· = { s.regs with memptr := nn + 1 })
      [(nn, w.extractLsb' 0 8), (nn + 1, w.extractLsb' 8 8)]
      (wr nn (w.extractLsb' 0 8) ++ wr (nn + 1) (w.extractLsb' 8 8))

/-- PUSH rp2 and PUSH XY store the high byte of the pair at SP - 1 and then the low byte at SP - 2, leave SP two
lower (wrapping) and charge one extra unit. POP rp2 and POP XY load the pair (all eight flag bits for AF) with
the bytes at SP and SP + 1, low first, and leave SP two higher. Every other byte and register is unchanged.
(R92, R93, R240, R241, R242, R243) -/
def Obligations.PushAndPop : Prop :=
  ∀ s : State,
    (s.Inv → ∀ (i : Instr) (w : Word),
      (∃ p, i = .pushRp2 p ∧ w = s.regs.rp2 p) ∨ (∃ x, i = .pushXY x ∧ w = s.regs.xy x) →
      Leaves (exec i s) s (· = { s.regs with sp := s.regs.sp - 2 })
        [(s.regs.sp - 1, w.extractLsb' 8 8), (s.regs.sp - 2, w.extractLsb' 0 8)]
        (wr (s.regs.sp - 1) (w.extractLsb' 8 8) ++ wr (s.regs.sp - 2) (w.extractLsb' 0 8) ++ [.tick 1]))
    ∧ (∀ p, Leaves (exec (.popRp2 p) s) s
      (Sets16S { s.regs with sp := s.regs.sp + 2 } · p (s.byteAt (s.regs.sp + 1) ++ s.byteAt s.regs.sp)) []
      (s.rd s.regs.sp ++ s.rd (s.regs.sp + 1)))
    ∧ (∀ x, Leaves (exec (.popXY x) s) s
      (SetsIndex { s.regs with sp := s.regs.sp + 2 } · x (s.byteAt (s.regs.sp + 1) ++ s.byteAt s.regs.sp)) []
      (s.rd s.regs.sp ++ s.rd (s.regs.sp + 1)))

/-- For every state and every pair pushed and every pair popped right after: both complete (there is no stack limit
and no stack fault) and SP is back to its value before the push; where the two bytes below SP take writes (not
in ROM_SET, R101) the popped pair holds the pushed word. A push at SP = 0x0000 writes 0xFFFF, then 0xFFFE, and
SP becomes 0xFFFE. (R94) -/
def Obligations.PopAfterPushIsInverse : Prop :=
  (∀ (s : State) (p q : StackPair), s.Inv →
    ∃ t u, exec (.pushRp2 p) s = .next t ∧ exec (.popRp2 q) t = .next u ∧ u.regs.sp = s.regs.sp
      ∧ (s.inRom (s.regs.sp - 1) = false → s.inRom (s.regs.sp - 2) = false → u.regs.rp2 q = s.regs.rp2 p))
  ∧ ∀ (s : State) (p : StackPair), s.regs.sp = 0x0000 →
    ∃ t, exec (.pushRp2 p) s = .next t ∧ t.regs.sp = 0xFFFE
      ∧ t.trace = (wr 0xFFFF ((s.regs.rp2 p).extractLsb' 8 8) ++ wr 0xFFFE ((s.regs.rp2 p).extractLsb' 0 8)
          ++ [Event.tick 1]).reverse ++ s.trace

/-- EX AF,AF' swaps AF with AF'; EXX swaps BC, DE, HL with BC', DE', HL'; EX DE,HL swaps DE and HL. No other
register and no byte of memory changes. (R33, R260, R261, R262) -/
def Obligations.Exchanges : Prop :=
  ∀ s : State,
    Leaves (exec .exAfAf s) s (· = { s.regs with af := s.regs.afAlt, afAlt := s.regs.af }) [] []
    ∧ Leaves (exec .exx s) s (· = { s.regs with
        bc := s.regs.bcAlt, de := s.regs.deAlt, hl := s.regs.hlAlt
        bcAlt := s.regs.bc, deAlt := s.regs.de, hlAlt := s.regs.hl }) [] []
    ∧ Leaves (exec .exDeHl s) s (· = { s.regs with de := s.regs.hl, hl := s.regs.de }) [] []

/-- The register takes the word at SP (low) and SP + 1 (high) and MEMPTR that same word; the old register value is
stored there, high byte first; SP is unchanged and 3 extra units are charged. (R263, R273) -/
def Obligations.ExchangeStackTop : Prop :=
  ∀ s : State, s.Inv →
    (let w := s.byteAt (s.regs.sp + 1) ++ s.byteAt s.regs.sp
     Leaves (exec .exIndSpHl s) s (· = { s.regs with hl := w, memptr := w })
      [(s.regs.sp + 1, s.regs.hl.extractLsb' 8 8), (s.regs.sp, s.regs.hl.extractLsb' 0 8)]
      (s.rd s.regs.sp ++ s.rd (s.regs.sp + 1) ++ wr (s.regs.sp + 1) (s.regs.hl.extractLsb' 8 8)
        ++ wr s.regs.sp (s.regs.hl.extractLsb' 0 8) ++ [.tick 3]))
    ∧ ∀ x,
      let w := s.byteAt (s.regs.sp + 1) ++ s.byteAt s.regs.sp
      Leaves (exec (.exIndSpXY x) s) s (SetsIndex { s.regs with memptr := w } · x w)
      [(s.regs.sp + 1, (s.regs.xy x).extractLsb' 8 8), (s.regs.sp, (s.regs.xy x).extractLsb' 0 8)]
      (s.rd s.regs.sp ++ s.rd (s.regs.sp + 1) ++ wr (s.regs.sp + 1) ((s.regs.xy x).extractLsb' 8 8)
        ++ wr s.regs.sp ((s.regs.xy x).extractLsb' 0 8) ++ [.tick 3])

/-- Each form copies the byte at HL to DE, moves HL and DE up (LDI, LDIR) or down (LDD, LDDR), counts BC down and
sets F: S, Z, C kept, H and N 0, PV whether BC is not 0 after, X3 and X5 from bits 3 and 1 of A plus the byte.
LDIR and LDDR with BC not 0 after also set PC back by 2 and MEMPTR to that address plus 1, and charge 5 more
units. That this repeat charge is an event of its own after the form's extra units is the model's choice (log
entry 9); the total is the rules'. (R264, R265, R266, R267, R268) -/
def Obligations.BlockTransfer : Prop :=
  ∀ s : State, s.Inv → ∀ (i : Instr) (step : Word) (loops : Bool),
    (i, step, loops) ∈ [(Instr.ldi, (1 : Word), false), (.ldd, -1, false), (.ldir, 1, true), (.lddr, -1, true)] →
    let v := s.byteAt s.regs.hl
    let left := s.regs.bc != 1
    let g := { s.regs.withAF (s.regs.view .a) (copyFlags (s.regs.view .a) v s.regs.f left) with
      hl := s.regs.hl + step, de := s.regs.de + step, bc := s.regs.bc - 1 }
    Leaves (exec i s) s
      (· = if loops && left then { g with pc := s.regs.pc - 2, memptr := s.regs.pc - 1 } else g)
      [(s.regs.de, v)]
      (s.rd s.regs.hl ++ wr s.regs.de v ++ [.tick 2] ++ if loops && left then [Event.tick 5] else [])

/-- Each form compares A with the byte at HL, moves HL and MEMPTR up or down, counts BC down and sets F as the
subtraction does for S, Z and H, with N 1, C kept, PV whether BC is not 0 after, X3 and X5 from bits 3 and 1 of
the result less H. CPIR and CPDR with BC not 0 after and no match also set PC back by 2 and MEMPTR to that
address plus 1, and charge 5 more units. That this repeat charge is an event of its own after the form's extra
units is the model's choice (log entry 9); the total is the rules'. (R264, R269, R270, R271, R272) -/
def Obligations.BlockSearch : Prop :=
  ∀ (s : State) (i : Instr) (step : Word) (loops : Bool),
    (i, step, loops) ∈ [(Instr.cpi, (1 : Word), false), (.cpd, -1, false), (.cpir, 1, true), (.cpdr, -1, true)] →
    let v := s.byteAt s.regs.hl
    let left := s.regs.bc != 1
    let again := loops && left && s.regs.view .a != v
    let g := { s.regs.withAF (s.regs.view .a) (searchFlags (s.regs.view .a) v s.regs.f left) with
      hl := s.regs.hl + step, bc := s.regs.bc - 1, memptr := s.regs.memptr + step }
    Leaves (exec i s) s (· = if again then { g with pc := s.regs.pc - 2, memptr := s.regs.pc - 1 } else g) []
      (s.rd s.regs.hl ++ [.tick 5] ++ if again then [Event.tick 5] else [])

/-- For each of the eight operations, with a register, an immediate and (UNDOC_ADMIT = Admit) a half of an index
register: A and F become the result and the flags of the operation on A, the operand and the old carry in the
closed forms of R175; CP keeps A and takes X5 and X3 from the operand. No other register, no byte of memory
changes. (R175, R176, R177, R178, R179, R180, R298) -/
def Obligations.AluRegisterAndImmediate : Prop :=
  ∀ (s : State) (op : AluOp),
    let after := fun v => (op.spec (s.regs.view .a) v (s.regs.f.getLsbD 0))
    (∀ r, Leaves (exec (op.reg r) s) s
      (· = s.regs.withAF (after (s.regs.view r)).1 (after (s.regs.view r)).2) [] [])
    ∧ (∀ n, Leaves (exec (op.imm n) s) s (· = s.regs.withAF (after n).1 (after n).2) [] [])
    ∧ (s.params.undocAdmit = .admitted → ∀ x,
      (let v := (s.regs.xy x).extractLsb' 8 8
       Leaves (exec (op.indexHigh x) s) s (· = s.regs.withAF (after v).1 (after v).2) [] [])
      ∧ (let v := (s.regs.xy x).extractLsb' 0 8
         Leaves (exec (op.indexLow x) s) s (· = s.regs.withAF (after v).1 (after v).2) [] []))

/-- For each of the eight operations with the byte at HL or at XY + sext(d): A and F become the result and the flags
of the operation in the closed forms of R175; the indexed form sets MEMPTR to the effective address and charges
5 units after its read. No other register, no byte of memory changes. (R175, R176, R177, R178, R179, R180, R298) -/
def Obligations.AluMemory : Prop :=
  ∀ (s : State) (op : AluOp),
    let after := fun v => (op.spec (s.regs.view .a) v (s.regs.f.getLsbD 0))
    (let v := s.byteAt s.regs.hl
     Leaves (exec op.indHl s) s (· = s.regs.withAF (after v).1 (after v).2) [] (s.rd s.regs.hl))
    ∧ ∀ x d, let v := s.byteAt (s.ea x d)
      Leaves (exec (op.indexed x d) s) s
        (· = { s.regs.withAF (after v).1 (after v).2 with memptr := s.ea x d }) [] (s.rd (s.ea x d) ++ [.tick 5])

/-- INC r and DEC r, and with UNDOC_ADMIT = Admit INC and DEC of XYH and XYL, add or subtract 1 mod 256 and set S,
Z, H, PV, N, X5 and X3 by R181 and R182, keeping C; the other half of an index register is unchanged, and so is
everything else. (R181, R182, R300, R302, R303, R305) -/
def Obligations.IncDecRegister : Prop :=
  ∀ (s : State) (op : IncOp),
    let f := s.regs.f
    let a := s.regs.view .a
    (∀ r, let v := s.regs.view r
      Leaves (exec (op.reg r) s) s (Sets8F (s.regs.withAF a (op.flags v f)) · r (op.result v) (op.flags v f)) [] [])
    ∧ (s.params.undocAdmit = .admitted → ∀ x,
      let h := (s.regs.xy x).extractLsb' 8 8
      let l := (s.regs.xy x).extractLsb' 0 8
      Leaves (exec (op.indexHigh x) s) s (SetsIndex (s.regs.withAF a (op.flags h f)) · x (op.result h ++ l)) [] []
      ∧ Leaves (exec (op.indexLow x) s) s (SetsIndex (s.regs.withAF a (op.flags l f)) · x (h ++ op.result l)) [] [])

/-- INC (HL), DEC (HL), INC (XY+d) and DEC (XY+d) read the byte, write it back plus or minus 1 and set the flags of
R181 and R182; extra 1 unit for (HL), 6 and MEMPTR for (XY+d). Every other byte and register is unchanged.
(R181, R182, R301, R304, R306, R307) -/
def Obligations.IncDecMemory : Prop :=
  ∀ s : State, s.Inv → ∀ op : IncOp,
    (let a := s.regs.hl
     let v := s.byteAt a
     Leaves (exec op.indHl s) s
      (· = s.regs.withAF (s.regs.view .a) (op.flags v s.regs.f)) [(a, op.result v)]
      (s.rd a ++ wr a (op.result v) ++ [.tick 1]))
    ∧ ∀ x d,
      let a := s.ea x d
      let v := s.byteAt a
      Leaves (exec (op.indexed x d) s) s
      (· = { s.regs.withAF (s.regs.view .a) (op.flags v s.regs.f) with memptr := a }) [(a, op.result v)]
      (s.rd a ++ wr a (op.result v) ++ [.tick 6])

/-- DAA corrects A by 0x06 and 0x60 as H, the low nibble, C and A above 0x99 say, with C never cleared; CPL
complements A; NEG (and its mirrors under UNDOC_ADMIT = Admit) is 0 - A; CCF and SCF change C, H and N with X5
and X3 from A. Nothing else changes. (R320, R321, R322, R323, R324) -/
def Obligations.AccumulatorAdjust : Prop :=
  ∀ s : State,
    let a := s.regs.view .a
    let f := s.regs.f
    Leaves (exec .daa s) s (· = s.regs.withAF (daaSpec a f).1 (daaSpec a f).2) [] []
    ∧ Leaves (exec .cpl s) s (· = s.regs.withAF (~~~a) (flagByte (f.getLsbD 7) (f.getLsbD 6) (!a.getLsbD 5) true
        (!a.getLsbD 3) (f.getLsbD 2) true (f.getLsbD 0))) [] []
    ∧ Leaves (exec .neg s) s (· = s.regs.withAF (-a) (subFlags 0 a false (-a))) [] []
    ∧ (s.params.undocAdmit = .admitted → ∀ y,
        Leaves (exec (.negAlias y) s) s (· = s.regs.withAF (-a) (subFlags 0 a false (-a))) [] [])
    ∧ Leaves (exec .ccf s) s (· = s.regs.withAF a (flagByte (f.getLsbD 7) (f.getLsbD 6) (a.getLsbD 5) (f.getLsbD 0)
        (a.getLsbD 3) (f.getLsbD 2) false (!f.getLsbD 0))) [] []
    ∧ Leaves (exec .scf s) s (· = s.regs.withAF a (flagByte (f.getLsbD 7) (f.getLsbD 6) (a.getLsbD 5) false
        (a.getLsbD 3) (f.getLsbD 2) false true)) [] []

/-- NOP changes nothing; HALT sets halted and takes PC back to its own byte; DI clears and EI sets both flip-flops,
EI also eiLast when EI_DELAY = true; IM n sets the mode, its mirrors too under UNDOC_ADMIT = Admit. No flag, no
other register and no byte of memory changes. (R325, R326, R327, R328, R332, R333, R334) -/
def Obligations.CpuControl : Prop :=
  ∀ s : State,
    Leaves (exec .nop s) s (· = s.regs) [] []
    ∧ Leaves (exec .halt s) s (· = { s.regs with halted := true, pc := s.regs.pc - 1 }) [] []
    ∧ Leaves (exec .di s) s (· = { s.regs with iff1 := false, iff2 := false }) [] []
    ∧ Leaves (exec .ei s) { s with eiLast := s.params.eiDelay } (· = { s.regs with iff1 := true, iff2 := true }) [] []
    ∧ Leaves (exec .im0 s) s (· = { s.regs with im := .im0 }) [] []
    ∧ Leaves (exec .im1 s) s (· = { s.regs with im := .im1 }) [] []
    ∧ Leaves (exec .im2 s) s (· = { s.regs with im := .im2 }) [] []
    ∧ (s.params.undocAdmit = .admitted →
        (∀ y, Leaves (exec (.im0Alias y) s) s (· = { s.regs with im := .im0 }) [] [])
        ∧ Leaves (exec .im1Alias s) s (· = { s.regs with im := .im1 }) [] []
        ∧ Leaves (exec .im2Alias s) s (· = { s.regs with im := .im2 }) [] [])

/-- LD I,A copies A to I; LD R,A splits A over R7 and R; LD A,I and LD A,R load A from I or from R7 over R, with S,
Z, X5 and X3 from it, H and N 0, PV = IFF2 and C kept. Each charges one extra unit and changes nothing else.
(R42, R43, R329, R330, R331, R335) -/
def Obligations.InterruptAndRefreshRegisters : Prop :=
  ∀ s : State,
    let a := s.regs.view .a
    let flags := fun v : Byte => flagByte v.msb (v == 0) (v.getLsbD 5) false (v.getLsbD 3) s.regs.iff2 false
      (s.regs.f.getLsbD 0)
    let refresh : Byte := BitVec.ofNat 8 (128 * s.regs.r7.toNat + s.regs.r.toNat)
    Leaves (exec .ldIA s) s (· = { s.regs with i := a }) [] [.tick 1]
    ∧ Leaves (exec .ldRA s) s (· = { s.regs with r := a.extractLsb' 0 7, r7 := a.msb }) [] [.tick 1]
    ∧ Leaves (exec .ldAI s) s (· = s.regs.withAF s.regs.i (flags s.regs.i)) [] [.tick 1]
    ∧ Leaves (exec .ldAR s) s (· = s.regs.withAF refresh (flags refresh)) [] [.tick 1]

/-- ADD keeps S, Z and PV and sets H from bit 11, C from bit 15, N 0, X5 and X3 from the result; ADC and SBC set all
eight flags, Z over all 16 bits. MEMPTR is the old first operand plus 1 and 7 extra units are charged. ADD XY,rp
does not touch HL. Nothing else changes. (R175, R185, R186, R350, R351, R352, R353) -/
def Obligations.Arithmetic16 : Prop :=
  ∀ s : State,
    let a := s.regs.view .a
    let c := s.regs.f.getLsbD 0
    (∀ p, Leaves (exec (.addHlRp p) s) s
      (· = { s.regs.withAF a (addFlags16 s.regs.hl (s.regs.rp p) s.regs.f) with
        hl := s.regs.hl + s.regs.rp p, memptr := s.regs.hl + 1 }) [] [.tick 7])
    ∧ (∀ p, Leaves (exec (.adcHlRp p) s) s
      (· = { s.regs.withAF a (adcFlags16 s.regs.hl (s.regs.rp p) c) with
        hl := sumOf16 s.regs.hl (s.regs.rp p) c, memptr := s.regs.hl + 1 }) [] [.tick 7])
    ∧ (∀ p, Leaves (exec (.sbcHlRp p) s) s
      (· = { s.regs.withAF a (sbcFlags16 s.regs.hl (s.regs.rp p) c) with
        hl := diffOf16 s.regs.hl (s.regs.rp p) c, memptr := s.regs.hl + 1 }) [] [.tick 7])
    ∧ (∀ x p, Leaves (exec (.addXYRp x p) s) s
      (SetsIndex { s.regs.withAF a (addFlags16 (s.regs.xy x) (s.regs.addend x p) s.regs.f) with
        memptr := s.regs.xy x + 1 } · x (s.regs.xy x + s.regs.addend x p)) [] [.tick 7])

/-- INC rp, DEC rp, INC XY and DEC XY add or subtract 1 mod 65536, charge 2 extra units and change nothing else, no
flag among it. (R355, R356, R357, R358) -/
def Obligations.IncDecPairs : Prop :=
  ∀ s : State,
    (∀ p, Leaves (exec (.incRp p) s) s (Sets16 s.regs · p (s.regs.rp p + 1)) [] [.tick 2]
      ∧ Leaves (exec (.decRp p) s) s (Sets16 s.regs · p (s.regs.rp p - 1)) [] [.tick 2])
    ∧ (∀ x, Leaves (exec (.incXY x) s) s (SetsIndex s.regs · x (s.regs.xy x + 1)) [] [.tick 2]
      ∧ Leaves (exec (.decXY x) s) s (SetsIndex s.regs · x (s.regs.xy x - 1)) [] [.tick 2])

/-- The four accumulator rotates move A by one bit, circular or through C, put the bit shifted out in C, clear H and
N, take X5 and X3 from the new A and keep S, Z and PV. Nothing else changes. (R370, R371, R372, R373) -/
def Obligations.AccumulatorRotates : Prop :=
  ∀ (s : State) (i : Instr) (op : RotOp),
    (i, op) ∈ [(Instr.rlca, RotOp.rlc), (.rrca, .rrc), (.rla, .rl), (.rra, .rr)] →
    let a := s.regs.view .a
    let r := op.result a (s.regs.f.getLsbD 0)
    Leaves (exec i s) s (· = s.regs.withAF r (accFlags r s.regs.f (op.out a))) [] []

/-- For each of the eight operations on each register (SLL with UNDOC_ADMIT = Admit): the register holds the rotated
or shifted value and F has C the bit shifted out, H and N 0, and S, Z, X5, X3 and parity of the result. Nothing
else changes. (R183, R374, R375, R376, R377, R378, R379, R380, R381, R382) -/
def Obligations.RotateRegister : Prop :=
  ∀ (s : State) (op : RotOp) (r : Reg8), (op = .sll → s.params.undocAdmit = .admitted) →
    let v := s.regs.view r
    let c := s.regs.f.getLsbD 0
    Leaves (exec (op.reg r) s) s
      (Sets8F (s.regs.withAF (s.regs.view .a) (op.flags v c)) · r (op.result v c) (op.flags v c)) [] []

/-- For each of the eight operations (SLL and the copy forms with UNDOC_ADMIT = Admit) the byte at HL or XY +
sext(d) is read and its rotated value written back, F as for a register; the indexed forms set MEMPTR, and the
copy forms also leave the value in the register (H and L, not the index halves). Extra 1 unit for (HL), 3 for
the indexed forms. Nothing else changes. (R183, R374, R375, R376, R377, R378, R379, R380, R381, R382) -/
def Obligations.RotateMemory : Prop :=
  ∀ s : State, s.Inv → ∀ op : RotOp,
    let c := s.regs.f.getLsbD 0
    let f := fun v => op.flags v c
    ((op = .sll → s.params.undocAdmit = .admitted) →
      (let a := s.regs.hl
       let v := s.byteAt a
       Leaves (exec op.indHl s) s (· = s.regs.withAF (s.regs.view .a) (f v)) [(a, op.result v c)]
        (s.rd a ++ wr a (op.result v c) ++ [.tick 1]))
      ∧ ∀ x d,
        let a := s.ea x d
        let v := s.byteAt a
        Leaves (exec (op.indexed x d) s) s
          (· = { s.regs.withAF (s.regs.view .a) (f v) with memptr := a }) [(a, op.result v c)]
          (s.rd a ++ wr a (op.result v c) ++ [.tick 3]))
    ∧ (s.params.undocAdmit = .admitted → ∀ x d r,
        let a := s.ea x d
        let v := s.byteAt a
        Leaves (exec (op.indexedCopy x d r) s) s
          (Sets8F { s.regs.withAF (s.regs.view .a) (f v) with memptr := a } · r (op.result v c) (f v))
          [(a, op.result v c)] (s.rd a ++ wr a (op.result v c) ++ [.tick 3]))

/-- BIT sets Z and PV to the complement of the bit, S when bit 7 is tested and 1, H 1, N 0 and keeps C; X5 and X3
come from the register, from the high byte of MEMPTR for (HL), from the high byte of the effective address for
(XY+d). With MEMPTR_EXACT = false X5 and X3 of BIT b,(HL) are those of a fresh free value and the draw is
counted (log entries 4 and 5). No register but F (and MEMPTR in the indexed forms) and no byte of memory
changes. (R184, R189, R387, R388, R395) -/
def Obligations.BitTests : Prop :=
  ∀ s : State,
    let a := s.regs.view .a
    let f := s.regs.f
    (∀ b r, Leaves (exec (.bitR b r) s) s
      (· = s.regs.withAF a (testFlags b (s.regs.view r) (s.regs.view r) f)) [] [])
    ∧ (s.params.memptrExact = true → ∀ b, Leaves (exec (.bitIndHl b) s) s
      (· = s.regs.withAF a (testFlags b (s.byteAt s.regs.hl) (s.regs.memptr.extractLsb' 8 8) f)) []
      (s.rd s.regs.hl ++ [.tick 1]))
    ∧ (s.params.memptrExact = false → ∀ b, Leaves (exec (.bitIndHl b) s) { s with draws := s.draws + 1 }
      (· = s.regs.withAF a (testFlags b (s.byteAt s.regs.hl) (Config.bitDraw s.draws) f)) []
      (s.rd s.regs.hl ++ [.tick 1]))
    ∧ (∀ (i : Instr) b x d, i = .bitIndXY b x d
        ∨ (s.params.undocAdmit = .admitted ∧ ∃ r, i = .bitIndXYAlias b x d r) →
      Leaves (exec i s) s
      (· = { s.regs.withAF a (testFlags b (s.byteAt (s.ea x d)) ((s.ea x d).extractLsb' 8 8) f) with
        memptr := s.ea x d }) [] (s.rd (s.ea x d) ++ [.tick 3]))

/-- RES clears and SET sets bit b and keeps the other seven, in a register, in the byte at HL or at XY + sext(d)
(written back even when unchanged), and with UNDOC_ADMIT = Admit also in a register in the copy forms. No flag
changes; MEMPTR is set in the indexed forms alone; extra 1 unit for (HL), 3 for the indexed forms. (R389, R390,
R391, R392, R396, R397) -/
def Obligations.BitResetAndSet : Prop :=
  ∀ s : State, s.Inv → ∀ (on : Bool) (b : BitVec 3),
    let m := if on then bitOn b else bitOff b
    (∀ r, Leaves (exec (if on then .setR b r else .resR b r) s) s (Sets8 s.regs · r (m (s.regs.view r))) [] [])
    ∧ (let a := s.regs.hl
       let v := m (s.byteAt a)
       Leaves (exec (if on then .setIndHl b else .resIndHl b) s) s (· = s.regs) [(a, v)]
        (s.rd a ++ wr a v ++ [.tick 1]))
    ∧ (∀ x d,
       let a := s.ea x d
       let v := m (s.byteAt a)
       Leaves (exec (if on then .setIndXY b x d else .resIndXY b x d) s) s (· = { s.regs with memptr := a }) [(a, v)]
        (s.rd a ++ wr a v ++ [.tick 3]))
    ∧ (s.params.undocAdmit = .admitted → ∀ x d r,
       let a := s.ea x d
       let v := m (s.byteAt a)
       Leaves (exec (if on then .setIndXYR b x d r else .resIndXYR b x d r) s) s
        (Sets8 { s.regs with memptr := a } · r v) [(a, v)] (s.rd a ++ wr a v ++ [.tick 3]))

/-- RLD moves the low nibble of A into (HL) low, (HL) low to high and (HL) high into A low; RRD the other way; the
high nibble of A is kept. S, Z, X5, X3 and parity come from the new A, H and N are 0, C is kept, MEMPTR is HL +
1 and 4 extra units are charged. Nothing else changes. (R393, R394) -/
def Obligations.NibbleRotates : Prop :=
  ∀ s : State, s.Inv →
    let a := (s.regs.view .a).toNat
    let v := (s.byteAt s.regs.hl).toNat
    let leaves := fun (i : Instr) (newA newM : Nat) =>
      Leaves (exec i s) s
        (· = { s.regs.withAF (BitVec.ofNat 8 newA) (readFlags (BitVec.ofNat 8 newA) s.regs.f) with
          memptr := s.regs.hl + 1 })
        [(s.regs.hl, BitVec.ofNat 8 newM)]
        (s.rd s.regs.hl ++ wr s.regs.hl (BitVec.ofNat 8 newM) ++ [.tick 4])
    leaves .rld (a / 16 * 16 + v / 16) (v % 16 * 16 + a % 16)
    ∧ leaves .rrd (a / 16 * 16 + v % 16) (a % 16 * 16 + v / 16)

/-- JP nn goes to nn, JP cc,nn if the condition holds, both with MEMPTR nn; JP (HL) and JP (XY) go to the register;
JR, JR cc and DJNZ go to PC + sext(e) with MEMPTR the target when taken and leave MEMPTR when not. DJNZ counts B
down and jumps unless it becomes 0. PC here is the address after the instruction. No flag and no byte of memory
changes. (R129, R400, R401, R402, R403, R404, R405, R406) -/
def Obligations.Jumps : Prop :=
  ∀ s : State,
    let f := s.regs.f
    (∀ nn, Leaves (exec (.jpNn nn) s) s (· = { s.regs with pc := nn, memptr := nn }) [] [])
    ∧ (∀ cc nn, Leaves (exec (.jpCcNn cc nn) s) s
      (· = if cc.holds f then { s.regs with pc := nn, memptr := nn } else { s.regs with memptr := nn }) [] [])
    ∧ Leaves (exec .jpIndHl s) s (· = { s.regs with pc := s.regs.hl }) [] []
    ∧ (∀ x, Leaves (exec (.jpIndXY x) s) s (· = { s.regs with pc := s.regs.xy x }) [] [])
    ∧ (∀ e : Byte, let target := s.regs.pc + e.signExtend 16
      Leaves (exec (.jr e) s) s (· = { s.regs with pc := target, memptr := target }) [] [.tick 5])
    ∧ (∀ (cc : JrCond) (e : Byte), let target := s.regs.pc + e.signExtend 16
      Leaves (exec (.jrCc cc e) s) s
        (· = if cc.toCond.holds f then { s.regs with pc := target, memptr := target } else s.regs) []
        (if cc.toCond.holds f then [Event.tick 5] else []))
    ∧ (∀ e : Byte, let target := s.regs.pc + e.signExtend 16
      let b := s.regs.view .b - 1
      Leaves (exec (.djnz e) s) s
        (Sets8 (if b = 0 then s.regs else { s.regs with pc := target, memptr := target }) · .b b) []
        (if b = 0 then [Event.tick 1] else [.tick 6]))

/-- CALL nn and RST t store PC (the address after the instruction), high byte at SP - 1 then low byte at SP - 2,
leave SP two lower and set PC and MEMPTR to nn or t*8, one extra unit; CALL cc,nn does so if the condition holds
and otherwise only sets MEMPTR to nn. No flag, no other register and no other byte changes. (R92, R408, R409,
R416) -/
def Obligations.Calls : Prop :=
  ∀ s : State, s.Inv → ∀ (i : Instr) (target : Word),
    i = .callNn target ∨ (∃ cc, i = .callCcNn cc target ∧ cc.holds s.regs.f = true)
      ∨ (∃ t : BitVec 3, i = .rst t ∧ target = BitVec.ofNat 16 (8 * t.toNat)) →
    (let pc := s.regs.pc
     let sp := s.regs.sp
     Leaves (exec i s) s (· = { s.regs with sp := sp - 2, pc := target, memptr := target })
      [(sp - 1, pc.extractLsb' 8 8), (sp - 2, pc.extractLsb' 0 8)]
      (wr (sp - 1) (pc.extractLsb' 8 8) ++ wr (sp - 2) (pc.extractLsb' 0 8) ++ [.tick 1]))
    ∧ ∀ cc nn, cc.holds s.regs.f = false →
      Leaves (exec (.callCcNn cc nn) s) s (· = { s.regs with memptr := nn }) [] []

/-- RET loads PC and MEMPTR with the word at SP (low) and SP + 1 (high) and leaves SP two higher; RET cc does so if
the condition holds and charges one extra unit either way; RETI and RETN (and the mirrors under UNDOC_ADMIT =
Admit) also copy IFF2 to IFF1. Nothing else changes. (R93, R411, R412, R413, R414, R477) -/
def Obligations.Returns : Prop :=
  ∀ s : State,
    let sp := s.regs.sp
    let w := s.byteAt (sp + 1) ++ s.byteAt sp
    let back := { s.regs with sp := sp + 2, pc := w, memptr := w }
    let reads := s.rd sp ++ s.rd (sp + 1)
    Leaves (exec .ret s) s (· = back) [] reads
    ∧ (∀ cc, Leaves (exec (.retCc cc) s) s (· = if cc.holds s.regs.f then back else s.regs) []
        ((if cc.holds s.regs.f then reads else []) ++ [.tick 1]))
    ∧ (∀ i : Instr, i = .reti ∨ i = .retn ∨ (s.params.undocAdmit = .admitted ∧ ∃ y, i = .retnAlias y) →
        Leaves (exec i s) s (· = { back with iff1 := s.regs.iff2 }) [] reads)

/-- IN A,(n) reads the port with high byte A and low byte n into A, no flag, MEMPTR that port plus 1; IN r,(C) reads
the port BC into r with S, Z, X5, X3 and parity from it, H and N 0, C kept, MEMPTR BC + 1; IN F,(C) (UNDOC_ADMIT
= Admit) sets the flags alone. The byte is the host's next answer, or, none being queued, a fresh free value
(the model's choice, log entry 3); the read is issued once, 1 unit before and 3 after. (R82, R84, R101, R430,
R432, R433) -/
def Obligations.PortInput : Prop :=
  ∀ s : State,
    (∀ n, let port := s.regs.view .a ++ n
      Leaves (exec (.inAIndN n) s) s.answered (Sets8 { s.regs with memptr := port + 1 } · .a (s.portByte port)) []
        (s.inp port))
    ∧ (let v := s.portByte s.regs.bc
       let f := readFlags v s.regs.f
       let g := { s.regs.withAF (s.regs.view .a) f with memptr := s.regs.bc + 1 }
       (∀ r, Leaves (exec (.inRIndC r) s) s.answered (Sets8F g · r v f) [] (s.inp s.regs.bc))
       ∧ (s.params.undocAdmit = .admitted → Leaves (exec .inFIndC s) s.answered (· = g) [] (s.inp s.regs.bc)))

/-- OUT (n),A writes A to the port with high byte A and low byte n, MEMPTR A over n + 1 mod 256; OUT (C),r writes r
and OUT (C),0 (UNDOC_ADMIT = Admit) writes 0 to the port BC, MEMPTR BC + 1. Nothing else changes. (R82, R84,
R101, R431, R434, R435) -/
def Obligations.PortOutput : Prop :=
  ∀ s : State,
    (∀ n : Byte, let a := s.regs.view .a
      Leaves (exec (.outIndNA n) s) s (· = { s.regs with memptr := a ++ (n + 1) }) [] (outp (a ++ n) a))
    ∧ (∀ r, Leaves (exec (.outIndCR r) s) s (· = { s.regs with memptr := s.regs.bc + 1 }) []
        (outp s.regs.bc (s.regs.view r)))
    ∧ (s.params.undocAdmit = .admitted →
        Leaves (exec .outIndC0 s) s (· = { s.regs with memptr := s.regs.bc + 1 }) [] (outp s.regs.bc 0))

/-- Each form reads the port BC (B before the count), stores the byte at HL, moves HL up or down, counts B down,
sets MEMPTR to BC plus or minus 1 and the flags from the byte, C plus or minus 1 and the new B. INIR and INDR
with B not 0 after also set PC back by 2 and charge 5 more units. That this repeat charge is an event of its own
after the form's extra units is the model's choice (log entry 9); the total is the rules'. The byte is the
host's answer or a free value (log entry 3). (R264, R436, R437, R438, R439) -/
def Obligations.BlockInput : Prop :=
  ∀ s : State, s.Inv → ∀ (i : Instr) (up loops : Bool),
    (i, up, loops) ∈ [(Instr.ini, true, false), (.ind, false, false), (.inir, true, true), (.indr, false, true)] →
    let move := fun a : Word => if up then a + 1 else a - 1
    let v := s.portByte s.regs.bc
    let c := s.regs.view .c
    let b := s.regs.view .b - 1
    let g := { s.regs.withAF (s.regs.view .a) (portFlags v (if up then c + 1 else c - 1) b) with
      bc := b ++ c, hl := move s.regs.hl, memptr := move s.regs.bc }
    Leaves (exec i s) s.answered (· = if loops && b != 0 then { g with pc := s.regs.pc - 2 } else g)
      [(s.regs.hl, v)]
      (s.inp s.regs.bc ++ wr s.regs.hl v ++ [.tick 1] ++ if loops && b != 0 then [Event.tick 5] else [])

/-- Each form reads the byte at HL, counts B down, writes the byte to the port BC (B after the count), moves HL up
or down, sets MEMPTR to the new BC plus or minus 1 and the flags from the byte, the new L and the new B. OTIR
and OTDR with B not 0 after also set PC back by 2 and charge 5 more units. That this repeat charge is an event
of its own after the form's extra units is the model's choice (log entry 9); the total is the rules'. No byte of
memory changes. (R264, R440, R441, R442, R443) -/
def Obligations.BlockOutput : Prop :=
  ∀ (s : State) (i : Instr) (up loops : Bool),
    (i, up, loops) ∈ [(Instr.outi, true, false), (.outd, false, false), (.otir, true, true), (.otdr, false, true)] →
    let move := fun a : Word => if up then a + 1 else a - 1
    let v := s.byteAt s.regs.hl
    let b := s.regs.view .b - 1
    let port := b ++ s.regs.view .c
    let hl := move s.regs.hl
    let g := { s.regs.withAF (s.regs.view .a) (portFlags v (hl.extractLsb' 0 8) b) with
      bc := port, hl := hl, memptr := move port }
    Leaves (exec i s) s (· = if loops && b != 0 then { g with pc := s.regs.pc - 2 } else g) []
      (s.rd s.regs.hl ++ outp port v ++ [.tick 1] ++ if loops && b != 0 then [Event.tick 5] else [])

/-- With STRICT_UNASSIGNED = false an unassigned ED entry, and an unassigned DD or FD entry under SoftNop, answers a
next state that differs only by the diagnostic event with the table, the byte and its address (PC is past the
byte, so the address is PC - 1); with STRICT_UNASSIGNED = true it is the fault of that name. That this holds
under UNDOC_ADMIT = Refuse too is the model's choice (log entry 10). (R470, R471) -/
def Obligations.UnassignedOpcodes : Prop :=
  ∀ (s : State) (i : Instr) (t : Table) (b : Byte),
    i = .unassignedED b ∧ t = .ed ∨ s.params.ddfdUnassigned = .softNop
      ∧ (i = .unassignedXY .ix b ∧ t = .dd ∨ i = .unassignedXY .iy b ∧ t = .fd) →
    (s.params.strictUnassigned = false →
      Leaves (exec i s) s (· = s.regs) [] [.unassigned t b (s.regs.pc - 1)])
    ∧ (s.params.strictUnassigned = true → exec i s = .fault (.unassigned t b (s.regs.pc - 1)))

/-- With DDFD_UNASSIGNED = Reexecute an unassigned DD or FD entry with byte b is the instruction that begins with b
and goes on at PC, with only the bytes after b fetched, so a later ED, DD or FD lead-in wins, also where that
instruction is again an unassigned DD or FD entry. With UNDOC_ADMIT = Admit and STRICT_UNASSIGNED = false it
answers a next state whenever some byte of memory is neither 0xDD nor 0xFD; for b = 0x00 (NOP) that is the state
itself. Where every byte of memory and b are 0xDD or 0xFD it is the fault endlessLeadIns (log entry 11). That
STRICT_UNASSIGNED plays no part for these entries, and UNDOC_ADMIT only by the instruction that runs, is the
model's choice (log entries 23 and 10). (R138, R471) -/
def Obligations.ReexecuteDispatchesTheByte : Prop :=
  ∀ (s : State) (x : Index) (b : Byte), s.params.ddfdUnassigned = .reexecute →
    exec (.unassignedXY x b) s = exec (s.decodeAfter [b]) (s.fetchAfter [b] (s.decodeAfter [b]))
    ∧ (s.params.undocAdmit = .admitted → s.params.strictUnassigned = false →
        (∃ a, s.byteAt a ≠ 0xDD ∧ s.byteAt a ≠ 0xFD) → ∃ t, exec (.unassignedXY x b) s = .next t)
    ∧ exec (.unassignedXY x 0x00) s = .next s
    ∧ ((∀ a, s.byteAt a = 0xDD ∨ s.byteAt a = 0xFD) → b = 0xDD ∨ b = 0xFD →
        exec (.unassignedXY x b) s = .fault .endlessLeadIns)

/-- With UNDOC_ADMIT = Admit, DDFD_UNASSIGNED = SoftNop and STRICT_UNASSIGNED = false, each router row run as an
instruction answers a next state, that of the instruction its lead-in bytes begin and the bytes at PC complete,
after the fetch of those further bytes alone (the reading of a lead-in as an instruction is the model's own, log
entry 14). (R120, R131) -/
def Obligations.RouterRowsRunWhatTheyIntroduce : Prop :=
  ∀ s : State, s.params.undocAdmit = .admitted → s.params.ddfdUnassigned = .softNop →
    s.params.strictUnassigned = false →
    ∀ (i : Instr) (pre : List Byte),
      (i, pre) ∈ [(Instr.prefixCB, [(0xCB : Byte)]), (.prefixED, [0xED]), (.prefixDD, [0xDD]), (.prefixFD, [0xFD]),
        (.prefixXYCB .ix, [0xDD, 0xCB]), (.prefixXYCB .iy, [0xFD, 0xCB])] →
      ∃ t, exec i s = .next t ∧ exec (s.decodeAfter pre) (s.fetchAfter pre (s.decodeAfter pre)) = .next t

/-- With UNDOC_ADMIT = Refuse every instruction of an undocumented row is refused by that name, and no other
instruction that is not a router row or an unassigned DD or FD entry is refused. The undocumented rows are
R137's list and, by R374 and R381, SLL (XY+d); that the unassigned rows are not among them, so that an
unassigned ED entry is not refused, is the model's choice (log entry 10). (R137, R374, R381) -/
def Obligations.UndocumentedRefused : Prop :=
  ∀ (s : State) (i : Instr), s.params.undocAdmit = .refused → i.isRouter = false →
    (∀ x b, i ≠ .unassignedXY x b) →
    if i.undocumented then exec i s = .refused .undocumented else ∀ r, exec i s ≠ .refused r

/-- When the next call is requestMaskableInterrupt() and IFF1 is 0, or EI_DELAY = true and eiLast = 1, the step
answers the same state less that call: nothing is latched and nothing is charged. (R461) -/
def Obligations.MaskableRequestIgnored : Prop :=
  ∀ (s : State) (rest : List HostCall), s.schedule = .requestMaskable :: rest →
    s.regs.iff1 = false ∨ (s.params.eiDelay = true ∧ s.eiLast = true) →
    step s = .next { s with schedule := rest }

/-- When the next call is requestNonMaskableInterrupt() the step answers a next state, whatever IFF1, IM, halted and
eiLast are: 7 units and one refresh, the return address (after the HALT byte if halted) pushed high byte first,
IFF1 0, IFF2 kept, halted 0, PC and MEMPTR 0x0066, eiLast 0, and every other register and byte unchanged. (R462,
R463, R464, R465, R466, R467, R468, R469) -/
def Obligations.NonMaskableDelivery : Prop :=
  ∀ (s : State) (rest : List HostCall), s.Inv → s.schedule = .requestNonMaskable :: rest →
    let ret := if s.regs.halted then s.regs.pc + 1 else s.regs.pc
    let sp := s.regs.sp
    Leaves (step s) { s with schedule := rest, eiLast := false }
      (· = { s.regs with pc := 0x0066, memptr := 0x0066, sp := sp - 2, r := s.regs.r + 1, iff1 := false, halted := false })
      [(sp - 1, ret.extractLsb' 8 8), (sp - 2, ret.extractLsb' 0 8)]
      ([.tick 7] ++ wr (sp - 1) (ret.extractLsb' 8 8) ++ wr (sp - 2) (ret.extractLsb' 0 8))

/-- When the next call is requestMaskableInterrupt(), IFF1 = 1 and no EI delay holds, the step answers a next state
with both flip-flops 0, halted 0, the return address pushed, R one up, and PC and MEMPTR at 0x0038 (modes 0 and
1) or at the little-endian word read, after the pushes, at I over 0xFF and the next address (mode 2); eiLast 0;
every other register and byte unchanged. 13 units, 19 in mode 2. (R461, R463, R464, R465, R466, R467, R468,
R469) -/
def Obligations.MaskableDelivery : Prop :=
  ∀ (s : State) (rest : List HostCall), s.Inv → s.schedule = .requestMaskable :: rest →
    s.regs.iff1 = true → s.params.eiDelay = false ∨ s.eiLast = false →
    let ret := if s.regs.halted then s.regs.pc + 1 else s.regs.pc
    let sp := s.regs.sp
    let stores := [(sp - 1, ret.extractLsb' 8 8), (sp - 2, ret.extractLsb' 0 8)]
    let p : Word := s.regs.i ++ 0xFF#8
    let low := s.afterStores stores p
    let high := s.afterStores stores (p + 1)
    let vectored := s.regs.im == .im2
    let target : Word := if vectored then high ++ low else 0x0038
    Leaves (step s) { s with schedule := rest, eiLast := false }
      (· = { s.regs with pc := target, memptr := target, sp := sp - 2, r := s.regs.r + 1, iff1 := false, iff2 := false, halted := false })
      stores
      ([.tick 7] ++ wr (sp - 1) (ret.extractLsb' 8 8) ++ wr (sp - 2) (ret.extractLsb' 0 8)
        ++ if vectored then [Event.tick 3, .memRead p low, .tick 3, .memRead (p + 1) high] else [])

/-- If the host requests a non-maskable interrupt and RETN is the first instruction run after it, with the stack
bytes not in ROM_SET, then PC is the interrupted address (past the HALT byte if halted), SP is back, IFF1 and
IFF2 both hold the old IFF2, and A, F and all other pairs are as before. (R414, R463, R466, R477) -/
def Obligations.RetnUndoesNonMaskableDelivery : Prop :=
  ∀ (s : State), s.Inv → s.inRom (s.regs.sp - 1) = false → s.inRom (s.regs.sp - 2) = false →
    ∃ t, exec .retn s.requestNonMaskable = .next t
      ∧ t.regs = { s.regs with
          pc := if s.regs.halted then s.regs.pc + 1 else s.regs.pc, memptr := t.regs.pc
          r := s.regs.r + 1, iff1 := s.regs.iff2, halted := false }

/-- For every state whose memory is in canonical form (addresses strictly rising and below 65536, no byte equal to
what an unlisted address reads as) and every step of the machine, host calls included, that answers a next
state, its memory is in canonical form too. (R80, R101) -/
def Obligations.StepKeepsTheInvariant : Prop :=
  ∀ s t : State, s.Inv → step s = .next t → t.Inv

/-- The memory of the state after reset is in canonical form; no byte is listed, so every byte reads as 0 (the
launch memory is the model's choice, log entry 1). (R50, R101) -/
def Obligations.ResetHasTheInvariant : Prop :=
  State.reset.Inv ∧ ∀ a : Word, State.reset.byteAt a = 0

/-- With UNDOC_ADMIT = Admit, STRICT_UNASSIGNED = false and DDFD_UNASSIGNED = SoftNop, in every state, whatever
bytes stand at PC and whatever the host calls, the step answers a next state, unless the call is a host write of
a value outside its field's type. (R10, R135, R470, R513) -/
def Obligations.StepsNeverStopUnderTheDefaults : Prop :=
  ∀ s : State, s.params.undocAdmit = .admitted → s.params.strictUnassigned = false →
    s.params.ddfdUnassigned = .softNop →
    (∀ fld v, s.nextCall = .writeField fld v → v < hostFieldBound fld) → ∃ t, step s = .next t

/-- For every state and every instruction decoded at PC: if step() answers a next state, the units charged are the
total of the instruction's row, by condition, B, BC or match for the forms that depend on it; an unassigned
entry (soft path) charges 8. Under Reexecute the DD and FD unassigned entries are not covered here. (R84, R121,
R122, R374, R470, R511, R512) -/
def Obligations.StepsChargeTheTablesUnits : Prop :=
  ∀ s t : State, s.nextCall = .step → step s = .next t →
    (∀ x b, s.decodeAfter [] = .unassignedXY x b → s.params.ddfdUnassigned = .softNop) →
    t.units = s.units + (s.decodeAfter []).units s

/-- If an instruction that is no router row (nor a re-executed DD or FD entry) changes I it is LD I,A; R or R7, LD
R,A; IM, an IM instruction; IFF1 or IFF2, one of DI, EI, RETI, RETN; halted, HALT; AF', EX AF,AF'; BC', DE' or
HL', EXX; IX, an instruction whose encoding begins with 0xDD; IY, one whose encoding begins with 0xFD. No
instruction changes the parameters or the host's schedule. (R33, R34, R42, R43, R44, R45, R46, R51) -/
def Obligations.OnlyTheirWritersChangeTheSpecialRegisters : Prop :=
  ∀ (s t : State) (i : Instr), i.isRouter = false → (∀ x b, i = .unassignedXY x b → s.params.ddfdUnassigned = .softNop) →
    exec i s = .next t →
    (t.regs.i ≠ s.regs.i → i = .ldIA)
    ∧ (t.regs.r ≠ s.regs.r ∨ t.regs.r7 ≠ s.regs.r7 → i = .ldRA)
    ∧ (t.regs.im ≠ s.regs.im → i ∈ [.im0, .im1, .im2, .im1Alias, .im2Alias] ∨ ∃ y, i = .im0Alias y)
    ∧ (t.regs.iff1 ≠ s.regs.iff1 → i ∈ [.di, .ei, .reti, .retn] ∨ ∃ y, i = .retnAlias y)
    ∧ (t.regs.iff2 ≠ s.regs.iff2 → i ∈ [.di, .ei])
    ∧ (t.regs.halted ≠ s.regs.halted → i = .halt)
    ∧ (t.regs.afAlt ≠ s.regs.afAlt → i = .exAfAf)
    ∧ (t.regs.bcAlt ≠ s.regs.bcAlt ∨ t.regs.deAlt ≠ s.regs.deAlt ∨ t.regs.hlAlt ≠ s.regs.hlAlt → i = .exx)
    ∧ (t.regs.ix ≠ s.regs.ix → (encode i).head? = some 0xDD)
    ∧ (t.regs.iy ≠ s.regs.iy → (encode i).head? = some 0xFD)
    ∧ t.params = s.params ∧ t.schedule = s.schedule

/-- Every step that answers a next state, host calls included, leaves the parameters as they were and the old trace
at the end of the new one, so the timing total never goes down. (R101, R503, R511) -/
def Obligations.TheTraceOnlyGrows : Prop :=
  ∀ s t : State, step s = .next t → (∃ new, t.trace = new ++ s.trace) ∧ t.params = s.params ∧ s.units ≤ t.units
end

