-- ==== Sys2Proof/Laws/Memory.lean ====
section
/-!
SUPPORT. Memory: the read and write laws, and every memory operation keeps the canonical form.
-/

namespace Sys2Proof.Machine

theorem Memory.wfFrom_cons {n b : Nat} {w : Byte} {m : Memory} :
    Memory.wfFrom n ((b, w) :: m) = true ↔
      n ≤ b ∧ b < 65536 ∧ w ≠ unlistedByte ∧ Memory.wfFrom (b + 1) m = true := by
  simp [Memory.wfFrom, and_assoc]

theorem Memory.wfFrom_mono {m : Memory} {k n : Nat} (hk : k ≤ n) (h : Memory.wfFrom n m = true) :
    Memory.wfFrom k m = true := by
  cases m with
  | nil => rfl
  | cons c m =>
    obtain ⟨b, w⟩ := c
    rw [Memory.wfFrom_cons] at h ⊢
    exact ⟨hk.trans h.1, h.2⟩

/-- Below the first listed address every byte is the unlisted one. -/
theorem Memory.read_below {m : Memory} {n a : Nat} (h : Memory.wfFrom n m = true) (ha : a < n) :
    Memory.read m a = unlistedByte := by
  cases m with
  | nil => rfl
  | cons c m =>
    obtain ⟨b, w⟩ := c
    rw [Memory.wfFrom_cons] at h
    simp [Memory.read, show a < b by omega]

/-- A write keeps the canonical form. -/
theorem Memory.write_wfFrom {m : Memory} {n a : Nat} {v : Byte} (h : Memory.wfFrom n m = true) (hn : n ≤ a)
    (ha : a < 65536) : Memory.wfFrom n (Memory.write m a v) = true := by
  induction m generalizing n with
  | nil =>
    unfold Memory.write
    split
    · rfl
    · rw [Memory.wfFrom_cons]
      exact ⟨hn, ha, by assumption, rfl⟩
  | cons c m ih =>
    obtain ⟨b, w⟩ := c
    have hc := Memory.wfFrom_cons.mp h
    unfold Memory.write
    split
    · split
      · exact h
      · rw [Memory.wfFrom_cons, Memory.wfFrom_cons]
        exact ⟨hn, ha, by assumption, by omega, hc.2⟩
    · split
      · split
        · exact Memory.wfFrom_mono (by omega) hc.2.2.2
        · rw [Memory.wfFrom_cons]
          exact ⟨hn, ha, by assumption, by subst_vars; exact hc.2.2.2⟩
      · rw [Memory.wfFrom_cons]
        exact ⟨hc.1, hc.2.1, hc.2.2.1, ih hc.2.2.2 (by omega)⟩

/-- A write at a 16-bit address keeps the canonical form. -/
theorem Memory.write_wf {m : Memory} (h : m.wf = true) (a : Word) (v : Byte) : (m.write a.toNat v).wf = true :=
  Memory.write_wfFrom h (Nat.zero_le _) a.isLt

/-- Reading after a write: the byte written at its address, the old byte elsewhere. -/
theorem Memory.read_write_from {m : Memory} {n : Nat} (h : Memory.wfFrom n m = true) (a b : Nat) (v : Byte) :
    Memory.read (Memory.write m a v) b = if b = a then v else Memory.read m b := by
  induction m generalizing n with
  | nil => unfold Memory.write; split <;> simp_all [Memory.read]; intros; omega
  | cons c m ih =>
    obtain ⟨k, w⟩ := c
    have hc := Memory.wfFrom_cons.mp h
    have below := fun (x : Nat) (hx : x < k + 1) => Memory.read_below hc.2.2.2 hx
    unfold Memory.write
    split
    · split
      · by_cases hb : b = a
        · subst_vars; simp [Memory.read, *]
        · simp [hb]
      · by_cases hb : b = a
        · simp [Memory.read, hb]
        · by_cases hba : b < a
          · simp [Memory.read, hba, hb, show b < k by omega]
          · simp [Memory.read, hba, hb]
    · split
      · rename_i hak
        rw [hak]
        split
        · by_cases hb : b = k
          · simp [below k (by omega), *]
          · by_cases hbk : b < k
            · simp [Memory.read, hb, hbk, below b (by omega)]
            · simp [Memory.read, hb, hbk]
        · by_cases hb : b = k <;> simp [Memory.read, hb]
      · by_cases hbk : b < k
        · simp [Memory.read, hbk, show b ≠ a by omega]
        · by_cases hb : b = k
          · simp [Memory.read, hb, show k ≠ a by omega]
          · simp [Memory.read, hbk, hb, ih hc.2.2.2]

theorem Memory.read_write {m : Memory} (h : m.wf = true) (a b : Nat) (v : Byte) :
    (m.write a v).read b = if b = a then v else m.read b := Memory.read_write_from h a b v

/-- Two memories in canonical form that read alike are the same list. -/
theorem Memory.ext_from {m k : Memory} {n : Nat} (hm : Memory.wfFrom n m = true) (hk : Memory.wfFrom n k = true)
    (h : ∀ a, Memory.read m a = Memory.read k a) : m = k := by
  induction m generalizing n k with
  | nil =>
    cases k with
    | nil => rfl
    | cons d k =>
      obtain ⟨e, w⟩ := d
      rw [Memory.wfFrom_cons] at hk
      exact absurd (by simpa [Memory.read] using (h e).symm) hk.2.2.1
  | cons c m ih =>
    obtain ⟨b, v⟩ := c
    rw [Memory.wfFrom_cons] at hm
    cases k with
    | nil => exact absurd (by simpa [Memory.read] using h b) hm.2.2.1
    | cons d k =>
      obtain ⟨e, w⟩ := d
      rw [Memory.wfFrom_cons] at hk
      have hbe : b = e := by
        by_contra hne
        rcases Nat.lt_or_gt_of_ne hne with hlt | hlt
        · exact hm.2.2.1 (by simpa [Memory.read, hlt] using h b)
        · exact hk.2.2.1 (by simpa [Memory.read, hlt] using (h e).symm)
      subst hbe
      have hv : v = w := by simpa [Memory.read] using h b
      subst hv
      congr 1
      refine ih hm.2.2.2 hk.2.2.2 fun a => ?_
      by_cases ha : a < b + 1
      · rw [Memory.read_below hm.2.2.2 ha, Memory.read_below hk.2.2.2 ha]
      · have := h a
        simpa [Memory.read, show ¬ a < b by omega, show a ≠ b by omega] using this

theorem Memory.ext_wf {m k : Memory} (hm : m.wf = true) (hk : k.wf = true)
    (h : ∀ a, m.read a = k.read a) : m = k := Memory.ext_from hm hk h

/-! ## The same for the state -/

/-- A bus write keeps the canonical form, whether or not the host ignores it. -/
theorem State.stored_wf {s : State} (h : s.Inv) (a : Word) (v : Byte) : (s.stored a v).wf = true := by
  unfold State.stored
  split
  · exact h
  · exact Memory.write_wf h a v

/-- The bytes after a bus write: the byte written unless the address is in `ROM_SET`, the old byte elsewhere. -/
theorem State.read_stored {s : State} (h : s.Inv) (a b : Word) (v : Byte) :
    (s.stored a v).read b.toNat = if b = a ∧ s.inRom a = false then v else s.byteAt b := by
  unfold State.stored State.byteAt
  by_cases hr : s.inRom a = true
  · simp [hr]
  · simp [hr, Memory.read_write h, BitVec.toNat_inj]

theorem State.reset_inv : State.reset.Inv := rfl

end Sys2Proof.Machine
end

