-- ==== Sys2Proof/Laws/State.lean ====
section
/-!
SUPPORT. Every field after every update, so that no proof unfolds a record update; and, for the derived views, that
an update which does not touch what they read leaves them.
-/

namespace Sys2Proof.Machine

/-! ## `log` -/

@[simp] theorem State.log_regs (s : State) (e : Event) : (s.log e).regs = s.regs := rfl
@[simp] theorem State.log_eiLast (s : State) (e : Event) : (s.log e).eiLast = s.eiLast := rfl
@[simp] theorem State.log_mem (s : State) (e : Event) : (s.log e).mem = s.mem := rfl
@[simp] theorem State.log_trace (s : State) (e : Event) : (s.log e).trace = e :: s.trace := rfl
@[simp] theorem State.log_params (s : State) (e : Event) : (s.log e).params = s.params := rfl
@[simp] theorem State.log_schedule (s : State) (e : Event) : (s.log e).schedule = s.schedule := rfl
@[simp] theorem State.log_portQueue (s : State) (e : Event) : (s.log e).portQueue = s.portQueue := rfl
@[simp] theorem State.log_draws (s : State) (e : Event) : (s.log e).draws = s.draws := rfl
@[simp] theorem State.log_byteAt (s : State) (e : Event) (b : Word) : (s.log e).byteAt b = s.byteAt b := rfl
@[simp] theorem State.log_stored (s : State) (e : Event) (b : Word) (u : Byte) :
    (s.log e).stored b u = s.stored b u := rfl
@[simp] theorem State.log_inv (s : State) (e : Event) : (s.log e).Inv ↔ s.Inv := by
  simp [State.Inv]
@[simp] theorem State.log_inRom (s : State) (e : Event) (b : Word) : (s.log e).inRom b = s.inRom b := rfl
@[simp] theorem State.log_portByte (s : State) (e : Event) (port : Word) : (s.log e).portByte port = s.portByte port := rfl

/-! ## `tick` -/

@[simp] theorem State.tick_regs (s : State) (n : Nat) : (s.tick n).regs = s.regs := by
  unfold State.tick; split <;> rfl
@[simp] theorem State.tick_eiLast (s : State) (n : Nat) : (s.tick n).eiLast = s.eiLast := by
  unfold State.tick; split <;> rfl
@[simp] theorem State.tick_mem (s : State) (n : Nat) : (s.tick n).mem = s.mem := by
  unfold State.tick; split <;> rfl
@[simp] theorem State.tick_trace (s : State) (n : Nat) :
    (s.tick n).trace = if n = 0 then s.trace else .tick n :: s.trace := by
  unfold State.tick; split <;> rfl
@[simp] theorem State.tick_params (s : State) (n : Nat) : (s.tick n).params = s.params := by
  unfold State.tick; split <;> rfl
@[simp] theorem State.tick_schedule (s : State) (n : Nat) : (s.tick n).schedule = s.schedule := by
  unfold State.tick; split <;> rfl
@[simp] theorem State.tick_portQueue (s : State) (n : Nat) : (s.tick n).portQueue = s.portQueue := by
  unfold State.tick; split <;> rfl
@[simp] theorem State.tick_draws (s : State) (n : Nat) : (s.tick n).draws = s.draws := by
  unfold State.tick; split <;> rfl
@[simp] theorem State.tick_byteAt (s : State) (n : Nat) (b : Word) : (s.tick n).byteAt b = s.byteAt b := by
  unfold State.tick; split <;> rfl
@[simp] theorem State.tick_stored (s : State) (n : Nat) (b : Word) (u : Byte) :
    (s.tick n).stored b u = s.stored b u := by
  unfold State.tick; split <;> rfl
@[simp] theorem State.tick_inv (s : State) (n : Nat) : (s.tick n).Inv ↔ s.Inv := by
  simp [State.Inv]
@[simp] theorem State.tick_inRom (s : State) (n : Nat) (b : Word) : (s.tick n).inRom b = s.inRom b := by
  unfold State.tick; split <;> rfl
@[simp] theorem State.tick_portByte (s : State) (n : Nat) (port : Word) : (s.tick n).portByte port = s.portByte port := by
  unfold State.tick; split <;> rfl

/-! ## `busRead` -/

@[simp] theorem State.busRead_regs (s : State) (a : Word) : (s.busRead a).regs = s.regs := rfl
@[simp] theorem State.busRead_eiLast (s : State) (a : Word) : (s.busRead a).eiLast = s.eiLast := rfl
@[simp] theorem State.busRead_mem (s : State) (a : Word) : (s.busRead a).mem = s.mem := rfl
@[simp] theorem State.busRead_trace (s : State) (a : Word) :
    (s.busRead a).trace = .memRead a (s.byteAt a) :: .tick 3 :: s.trace := rfl
@[simp] theorem State.busRead_params (s : State) (a : Word) : (s.busRead a).params = s.params := rfl
@[simp] theorem State.busRead_schedule (s : State) (a : Word) : (s.busRead a).schedule = s.schedule := rfl
@[simp] theorem State.busRead_portQueue (s : State) (a : Word) : (s.busRead a).portQueue = s.portQueue := rfl
@[simp] theorem State.busRead_draws (s : State) (a : Word) : (s.busRead a).draws = s.draws := rfl
@[simp] theorem State.busRead_byteAt (s : State) (a : Word) (b : Word) : (s.busRead a).byteAt b = s.byteAt b := rfl
@[simp] theorem State.busRead_stored (s : State) (a : Word) (b : Word) (u : Byte) :
    (s.busRead a).stored b u = s.stored b u := rfl
@[simp] theorem State.busRead_inv (s : State) (a : Word) : (s.busRead a).Inv ↔ s.Inv := by
  simp [State.Inv]
@[simp] theorem State.busRead_inRom (s : State) (a : Word) (b : Word) : (s.busRead a).inRom b = s.inRom b := rfl
@[simp] theorem State.busRead_portByte (s : State) (a : Word) (port : Word) : (s.busRead a).portByte port = s.portByte port := rfl

/-! ## `busWrite` -/

@[simp] theorem State.busWrite_regs (s : State) (a : Word) (v : Byte) : (s.busWrite a v).regs = s.regs := rfl
@[simp] theorem State.busWrite_eiLast (s : State) (a : Word) (v : Byte) : (s.busWrite a v).eiLast = s.eiLast := rfl
@[simp] theorem State.busWrite_mem (s : State) (a : Word) (v : Byte) : (s.busWrite a v).mem = s.stored a v := rfl
@[simp] theorem State.busWrite_trace (s : State) (a : Word) (v : Byte) :
    (s.busWrite a v).trace = .memWrite a v :: .tick 3 :: s.trace := rfl
@[simp] theorem State.busWrite_params (s : State) (a : Word) (v : Byte) : (s.busWrite a v).params = s.params := rfl
@[simp] theorem State.busWrite_schedule (s : State) (a : Word) (v : Byte) :
    (s.busWrite a v).schedule = s.schedule := rfl
@[simp] theorem State.busWrite_portQueue (s : State) (a : Word) (v : Byte) :
    (s.busWrite a v).portQueue = s.portQueue := rfl
@[simp] theorem State.busWrite_draws (s : State) (a : Word) (v : Byte) : (s.busWrite a v).draws = s.draws := rfl
@[simp] theorem State.busWrite_inRom (s : State) (a : Word) (v : Byte) (b : Word) : (s.busWrite a v).inRom b = s.inRom b := rfl
@[simp] theorem State.busWrite_portByte (s : State) (a : Word) (v : Byte) (port : Word) : (s.busWrite a v).portByte port = s.portByte port := rfl

/-! ## `portIn` -/

@[simp] theorem State.portIn_regs (s : State) (p : Word) : (s.portIn p).regs = s.regs := rfl
@[simp] theorem State.portIn_eiLast (s : State) (p : Word) : (s.portIn p).eiLast = s.eiLast := rfl
@[simp] theorem State.portIn_mem (s : State) (p : Word) : (s.portIn p).mem = s.mem := rfl
@[simp] theorem State.portIn_trace (s : State) (p : Word) :
    (s.portIn p).trace = .tick 3 :: .portRead p (s.portByte p) :: .tick 1 :: s.trace := rfl
@[simp] theorem State.portIn_params (s : State) (p : Word) : (s.portIn p).params = s.params := rfl
@[simp] theorem State.portIn_schedule (s : State) (p : Word) : (s.portIn p).schedule = s.schedule := rfl
@[simp] theorem State.portIn_portQueue (s : State) (p : Word) : (s.portIn p).portQueue = s.portQueue.tail := rfl
@[simp] theorem State.portIn_draws (s : State) (p : Word) :
    (s.portIn p).draws = if s.portQueue.isEmpty then s.draws + 1 else s.draws := rfl
@[simp] theorem State.portIn_byteAt (s : State) (p : Word) (b : Word) : (s.portIn p).byteAt b = s.byteAt b := rfl
@[simp] theorem State.portIn_stored (s : State) (p : Word) (b : Word) (u : Byte) :
    (s.portIn p).stored b u = s.stored b u := rfl
@[simp] theorem State.portIn_inv (s : State) (p : Word) : (s.portIn p).Inv ↔ s.Inv := by
  simp [State.Inv]
@[simp] theorem State.portIn_inRom (s : State) (p : Word) (b : Word) : (s.portIn p).inRom b = s.inRom b := rfl

/-! ## `portOut` -/

@[simp] theorem State.portOut_regs (s : State) (p : Word) (v : Byte) : (s.portOut p v).regs = s.regs := rfl
@[simp] theorem State.portOut_eiLast (s : State) (p : Word) (v : Byte) : (s.portOut p v).eiLast = s.eiLast := rfl
@[simp] theorem State.portOut_mem (s : State) (p : Word) (v : Byte) : (s.portOut p v).mem = s.mem := rfl
@[simp] theorem State.portOut_trace (s : State) (p : Word) (v : Byte) :
    (s.portOut p v).trace = .tick 3 :: .portWrite p v :: .tick 1 :: s.trace := rfl
@[simp] theorem State.portOut_params (s : State) (p : Word) (v : Byte) : (s.portOut p v).params = s.params := rfl
@[simp] theorem State.portOut_schedule (s : State) (p : Word) (v : Byte) :
    (s.portOut p v).schedule = s.schedule := rfl
@[simp] theorem State.portOut_portQueue (s : State) (p : Word) (v : Byte) :
    (s.portOut p v).portQueue = s.portQueue := rfl
@[simp] theorem State.portOut_draws (s : State) (p : Word) (v : Byte) : (s.portOut p v).draws = s.draws := rfl
@[simp] theorem State.portOut_byteAt (s : State) (p : Word) (v : Byte) (b : Word) : (s.portOut p v).byteAt b = s.byteAt b := rfl
@[simp] theorem State.portOut_stored (s : State) (p : Word) (v : Byte) (b : Word) (u : Byte) :
    (s.portOut p v).stored b u = s.stored b u := rfl
@[simp] theorem State.portOut_inv (s : State) (p : Word) (v : Byte) : (s.portOut p v).Inv ↔ s.Inv := by
  simp [State.Inv]
@[simp] theorem State.portOut_inRom (s : State) (p : Word) (v : Byte) (b : Word) : (s.portOut p v).inRom b = s.inRom b := rfl
@[simp] theorem State.portOut_portByte (s : State) (p : Word) (v : Byte) (port : Word) : (s.portOut p v).portByte port = s.portByte port := rfl

/-! ## `setPc` -/

@[simp] theorem State.setPc_regs (s : State) (v : Word) : (s.setPc v).regs = { s.regs with pc := v } := rfl
@[simp] theorem State.setPc_eiLast (s : State) (v : Word) : (s.setPc v).eiLast = s.eiLast := rfl
@[simp] theorem State.setPc_mem (s : State) (v : Word) : (s.setPc v).mem = s.mem := rfl
@[simp] theorem State.setPc_trace (s : State) (v : Word) : (s.setPc v).trace = s.trace := rfl
@[simp] theorem State.setPc_params (s : State) (v : Word) : (s.setPc v).params = s.params := rfl
@[simp] theorem State.setPc_schedule (s : State) (v : Word) : (s.setPc v).schedule = s.schedule := rfl
@[simp] theorem State.setPc_portQueue (s : State) (v : Word) : (s.setPc v).portQueue = s.portQueue := rfl
@[simp] theorem State.setPc_draws (s : State) (v : Word) : (s.setPc v).draws = s.draws := rfl
@[simp] theorem State.setPc_byteAt (s : State) (v : Word) (b : Word) : (s.setPc v).byteAt b = s.byteAt b := rfl
@[simp] theorem State.setPc_stored (s : State) (v : Word) (b : Word) (u : Byte) :
    (s.setPc v).stored b u = s.stored b u := rfl
@[simp] theorem State.setPc_inv (s : State) (v : Word) : (s.setPc v).Inv ↔ s.Inv := by
  simp [State.Inv]
@[simp] theorem State.setPc_inRom (s : State) (v : Word) (b : Word) : (s.setPc v).inRom b = s.inRom b := rfl
@[simp] theorem State.setPc_portByte (s : State) (v : Word) (port : Word) : (s.setPc v).portByte port = s.portByte port := rfl

/-! ## `setSp` -/

@[simp] theorem State.setSp_regs (s : State) (v : Word) : (s.setSp v).regs = { s.regs with sp := v } := rfl
@[simp] theorem State.setSp_eiLast (s : State) (v : Word) : (s.setSp v).eiLast = s.eiLast := rfl
@[simp] theorem State.setSp_mem (s : State) (v : Word) : (s.setSp v).mem = s.mem := rfl
@[simp] theorem State.setSp_trace (s : State) (v : Word) : (s.setSp v).trace = s.trace := rfl
@[simp] theorem State.setSp_params (s : State) (v : Word) : (s.setSp v).params = s.params := rfl
@[simp] theorem State.setSp_schedule (s : State) (v : Word) : (s.setSp v).schedule = s.schedule := rfl
@[simp] theorem State.setSp_portQueue (s : State) (v : Word) : (s.setSp v).portQueue = s.portQueue := rfl
@[simp] theorem State.setSp_draws (s : State) (v : Word) : (s.setSp v).draws = s.draws := rfl
@[simp] theorem State.setSp_byteAt (s : State) (v : Word) (b : Word) : (s.setSp v).byteAt b = s.byteAt b := rfl
@[simp] theorem State.setSp_stored (s : State) (v : Word) (b : Word) (u : Byte) :
    (s.setSp v).stored b u = s.stored b u := rfl
@[simp] theorem State.setSp_inv (s : State) (v : Word) : (s.setSp v).Inv ↔ s.Inv := by
  simp [State.Inv]
@[simp] theorem State.setSp_inRom (s : State) (v : Word) (b : Word) : (s.setSp v).inRom b = s.inRom b := rfl
@[simp] theorem State.setSp_portByte (s : State) (v : Word) (port : Word) : (s.setSp v).portByte port = s.portByte port := rfl

/-! ## `setMemptr` -/

@[simp] theorem State.setMemptr_regs (s : State) (v : Word) :
    (s.setMemptr v).regs = { s.regs with memptr := v } := rfl
@[simp] theorem State.setMemptr_eiLast (s : State) (v : Word) : (s.setMemptr v).eiLast = s.eiLast := rfl
@[simp] theorem State.setMemptr_mem (s : State) (v : Word) : (s.setMemptr v).mem = s.mem := rfl
@[simp] theorem State.setMemptr_trace (s : State) (v : Word) : (s.setMemptr v).trace = s.trace := rfl
@[simp] theorem State.setMemptr_params (s : State) (v : Word) : (s.setMemptr v).params = s.params := rfl
@[simp] theorem State.setMemptr_schedule (s : State) (v : Word) : (s.setMemptr v).schedule = s.schedule := rfl
@[simp] theorem State.setMemptr_portQueue (s : State) (v : Word) : (s.setMemptr v).portQueue = s.portQueue := rfl
@[simp] theorem State.setMemptr_draws (s : State) (v : Word) : (s.setMemptr v).draws = s.draws := rfl
@[simp] theorem State.setMemptr_byteAt (s : State) (v : Word) (b : Word) : (s.setMemptr v).byteAt b = s.byteAt b := rfl
@[simp] theorem State.setMemptr_stored (s : State) (v : Word) (b : Word) (u : Byte) :
    (s.setMemptr v).stored b u = s.stored b u := rfl
@[simp] theorem State.setMemptr_inv (s : State) (v : Word) : (s.setMemptr v).Inv ↔ s.Inv := by
  simp [State.Inv]
@[simp] theorem State.setMemptr_inRom (s : State) (v : Word) (b : Word) : (s.setMemptr v).inRom b = s.inRom b := rfl
@[simp] theorem State.setMemptr_portByte (s : State) (v : Word) (port : Word) : (s.setMemptr v).portByte port = s.portByte port := rfl

/-! ## `setIff` -/

@[simp] theorem State.setIff_regs (s : State) (p q : Bool) :
    (s.setIff p q).regs = { s.regs with iff1 := p, iff2 := q } := rfl
@[simp] theorem State.setIff_eiLast (s : State) (p q : Bool) : (s.setIff p q).eiLast = s.eiLast := rfl
@[simp] theorem State.setIff_mem (s : State) (p q : Bool) : (s.setIff p q).mem = s.mem := rfl
@[simp] theorem State.setIff_trace (s : State) (p q : Bool) : (s.setIff p q).trace = s.trace := rfl
@[simp] theorem State.setIff_params (s : State) (p q : Bool) : (s.setIff p q).params = s.params := rfl
@[simp] theorem State.setIff_schedule (s : State) (p q : Bool) : (s.setIff p q).schedule = s.schedule := rfl
@[simp] theorem State.setIff_portQueue (s : State) (p q : Bool) : (s.setIff p q).portQueue = s.portQueue := rfl
@[simp] theorem State.setIff_draws (s : State) (p q : Bool) : (s.setIff p q).draws = s.draws := rfl
@[simp] theorem State.setIff_byteAt (s : State) (p q : Bool) (b : Word) : (s.setIff p q).byteAt b = s.byteAt b := rfl
@[simp] theorem State.setIff_stored (s : State) (p q : Bool) (b : Word) (u : Byte) :
    (s.setIff p q).stored b u = s.stored b u := rfl
@[simp] theorem State.setIff_inv (s : State) (p q : Bool) : (s.setIff p q).Inv ↔ s.Inv := by
  simp [State.Inv]
@[simp] theorem State.setIff_inRom (s : State) (p q : Bool) (b : Word) : (s.setIff p q).inRom b = s.inRom b := rfl
@[simp] theorem State.setIff_portByte (s : State) (p q : Bool) (port : Word) : (s.setIff p q).portByte port = s.portByte port := rfl

/-! ## `bumpR` -/

@[simp] theorem State.bumpR_regs (s : State) : (s.bumpR).regs = { s.regs with r := s.regs.r + 1 } := rfl
@[simp] theorem State.bumpR_eiLast (s : State) : (s.bumpR).eiLast = s.eiLast := rfl
@[simp] theorem State.bumpR_mem (s : State) : (s.bumpR).mem = s.mem := rfl
@[simp] theorem State.bumpR_trace (s : State) : (s.bumpR).trace = s.trace := rfl
@[simp] theorem State.bumpR_params (s : State) : (s.bumpR).params = s.params := rfl
@[simp] theorem State.bumpR_schedule (s : State) : (s.bumpR).schedule = s.schedule := rfl
@[simp] theorem State.bumpR_portQueue (s : State) : (s.bumpR).portQueue = s.portQueue := rfl
@[simp] theorem State.bumpR_draws (s : State) : (s.bumpR).draws = s.draws := rfl
@[simp] theorem State.bumpR_byteAt (s : State) (b : Word) : (s.bumpR).byteAt b = s.byteAt b := rfl
@[simp] theorem State.bumpR_stored (s : State) (b : Word) (u : Byte) :
    (s.bumpR).stored b u = s.stored b u := rfl
@[simp] theorem State.bumpR_inv (s : State) : (s.bumpR).Inv ↔ s.Inv := by
  simp [State.Inv]
@[simp] theorem State.bumpR_inRom (s : State) (b : Word) : (s.bumpR).inRom b = s.inRom b := rfl
@[simp] theorem State.bumpR_portByte (s : State) (port : Word) : (s.bumpR).portByte port = s.portByte port := rfl

/-! ## `setA` -/

@[simp] theorem State.setA_regs (s : State) (v : Byte) :
    (s.setA v).regs = { s.regs with af := word v (lo s.regs.af) } := rfl
@[simp] theorem State.setA_eiLast (s : State) (v : Byte) : (s.setA v).eiLast = s.eiLast := rfl
@[simp] theorem State.setA_mem (s : State) (v : Byte) : (s.setA v).mem = s.mem := rfl
@[simp] theorem State.setA_trace (s : State) (v : Byte) : (s.setA v).trace = s.trace := rfl
@[simp] theorem State.setA_params (s : State) (v : Byte) : (s.setA v).params = s.params := rfl
@[simp] theorem State.setA_schedule (s : State) (v : Byte) : (s.setA v).schedule = s.schedule := rfl
@[simp] theorem State.setA_portQueue (s : State) (v : Byte) : (s.setA v).portQueue = s.portQueue := rfl
@[simp] theorem State.setA_draws (s : State) (v : Byte) : (s.setA v).draws = s.draws := rfl
@[simp] theorem State.setA_byteAt (s : State) (v : Byte) (b : Word) : (s.setA v).byteAt b = s.byteAt b := rfl
@[simp] theorem State.setA_stored (s : State) (v : Byte) (b : Word) (u : Byte) :
    (s.setA v).stored b u = s.stored b u := rfl
@[simp] theorem State.setA_inv (s : State) (v : Byte) : (s.setA v).Inv ↔ s.Inv := by
  simp [State.Inv]
@[simp] theorem State.setA_inRom (s : State) (v : Byte) (b : Word) : (s.setA v).inRom b = s.inRom b := rfl
@[simp] theorem State.setA_portByte (s : State) (v : Byte) (port : Word) : (s.setA v).portByte port = s.portByte port := rfl

/-! ## `setF` -/

@[simp] theorem State.setF_regs (s : State) (v : Byte) :
    (s.setF v).regs = { s.regs with af := word (hi s.regs.af) v } := rfl
@[simp] theorem State.setF_eiLast (s : State) (v : Byte) : (s.setF v).eiLast = s.eiLast := rfl
@[simp] theorem State.setF_mem (s : State) (v : Byte) : (s.setF v).mem = s.mem := rfl
@[simp] theorem State.setF_trace (s : State) (v : Byte) : (s.setF v).trace = s.trace := rfl
@[simp] theorem State.setF_params (s : State) (v : Byte) : (s.setF v).params = s.params := rfl
@[simp] theorem State.setF_schedule (s : State) (v : Byte) : (s.setF v).schedule = s.schedule := rfl
@[simp] theorem State.setF_portQueue (s : State) (v : Byte) : (s.setF v).portQueue = s.portQueue := rfl
@[simp] theorem State.setF_draws (s : State) (v : Byte) : (s.setF v).draws = s.draws := rfl
@[simp] theorem State.setF_byteAt (s : State) (v : Byte) (b : Word) : (s.setF v).byteAt b = s.byteAt b := rfl
@[simp] theorem State.setF_stored (s : State) (v : Byte) (b : Word) (u : Byte) :
    (s.setF v).stored b u = s.stored b u := rfl
@[simp] theorem State.setF_inv (s : State) (v : Byte) : (s.setF v).Inv ↔ s.Inv := by
  simp [State.Inv]
@[simp] theorem State.setF_inRom (s : State) (v : Byte) (b : Word) : (s.setF v).inRom b = s.inRom b := rfl
@[simp] theorem State.setF_portByte (s : State) (v : Byte) (port : Word) : (s.setF v).portByte port = s.portByte port := rfl

/-! ## `setAF` -/

@[simp] theorem State.setAF_regs (s : State) (p : Byte × Byte) :
    (s.setAF p).regs = { s.regs with af := word p.1 p.2 } := rfl
@[simp] theorem State.setAF_eiLast (s : State) (p : Byte × Byte) : (s.setAF p).eiLast = s.eiLast := rfl
@[simp] theorem State.setAF_mem (s : State) (p : Byte × Byte) : (s.setAF p).mem = s.mem := rfl
@[simp] theorem State.setAF_trace (s : State) (p : Byte × Byte) : (s.setAF p).trace = s.trace := rfl
@[simp] theorem State.setAF_params (s : State) (p : Byte × Byte) : (s.setAF p).params = s.params := rfl
@[simp] theorem State.setAF_schedule (s : State) (p : Byte × Byte) : (s.setAF p).schedule = s.schedule := rfl
@[simp] theorem State.setAF_portQueue (s : State) (p : Byte × Byte) : (s.setAF p).portQueue = s.portQueue := rfl
@[simp] theorem State.setAF_draws (s : State) (p : Byte × Byte) : (s.setAF p).draws = s.draws := rfl
@[simp] theorem State.setAF_byteAt (s : State) (p : Byte × Byte) (b : Word) : (s.setAF p).byteAt b = s.byteAt b := rfl
@[simp] theorem State.setAF_stored (s : State) (p : Byte × Byte) (b : Word) (u : Byte) :
    (s.setAF p).stored b u = s.stored b u := rfl
@[simp] theorem State.setAF_inv (s : State) (p : Byte × Byte) : (s.setAF p).Inv ↔ s.Inv := by
  simp [State.Inv]
@[simp] theorem State.setAF_inRom (s : State) (p : Byte × Byte) (b : Word) : (s.setAF p).inRom b = s.inRom b := rfl
@[simp] theorem State.setAF_portByte (s : State) (p : Byte × Byte) (port : Word) : (s.setAF p).portByte port = s.portByte port := rfl

/-! ## `setReg8` -/

@[simp] theorem State.setReg8_eiLast (s : State) (r : Reg8) (v : Byte) : (s.setReg8 r v).eiLast = s.eiLast := by
  cases r <;> rfl
@[simp] theorem State.setReg8_mem (s : State) (r : Reg8) (v : Byte) : (s.setReg8 r v).mem = s.mem := by
  cases r <;> rfl
@[simp] theorem State.setReg8_trace (s : State) (r : Reg8) (v : Byte) : (s.setReg8 r v).trace = s.trace := by
  cases r <;> rfl
@[simp] theorem State.setReg8_params (s : State) (r : Reg8) (v : Byte) : (s.setReg8 r v).params = s.params := by
  cases r <;> rfl
@[simp] theorem State.setReg8_schedule (s : State) (r : Reg8) (v : Byte) : (s.setReg8 r v).schedule = s.schedule := by
  cases r <;> rfl
@[simp] theorem State.setReg8_portQueue (s : State) (r : Reg8) (v : Byte) :
    (s.setReg8 r v).portQueue = s.portQueue := by
  cases r <;> rfl
@[simp] theorem State.setReg8_draws (s : State) (r : Reg8) (v : Byte) : (s.setReg8 r v).draws = s.draws := by
  cases r <;> rfl
@[simp] theorem State.setReg8_byteAt (s : State) (r : Reg8) (v : Byte) (b : Word) : (s.setReg8 r v).byteAt b = s.byteAt b := by
  cases r <;> rfl
@[simp] theorem State.setReg8_stored (s : State) (r : Reg8) (v : Byte) (b : Word) (u : Byte) :
    (s.setReg8 r v).stored b u = s.stored b u := by
  cases r <;> rfl
@[simp] theorem State.setReg8_inv (s : State) (r : Reg8) (v : Byte) : (s.setReg8 r v).Inv ↔ s.Inv := by
  simp [State.Inv]
@[simp] theorem State.setReg8_inRom (s : State) (r : Reg8) (v : Byte) (b : Word) : (s.setReg8 r v).inRom b = s.inRom b := by
  cases r <;> rfl
@[simp] theorem State.setReg8_portByte (s : State) (r : Reg8) (v : Byte) (port : Word) : (s.setReg8 r v).portByte port = s.portByte port := by
  cases r <;> rfl

/-! ## `setPair` -/

@[simp] theorem State.setPair_eiLast (s : State) (p : Pair) (v : Word) : (s.setPair p v).eiLast = s.eiLast := by
  cases p <;> rfl
@[simp] theorem State.setPair_mem (s : State) (p : Pair) (v : Word) : (s.setPair p v).mem = s.mem := by
  cases p <;> rfl
@[simp] theorem State.setPair_trace (s : State) (p : Pair) (v : Word) : (s.setPair p v).trace = s.trace := by
  cases p <;> rfl
@[simp] theorem State.setPair_params (s : State) (p : Pair) (v : Word) : (s.setPair p v).params = s.params := by
  cases p <;> rfl
@[simp] theorem State.setPair_schedule (s : State) (p : Pair) (v : Word) : (s.setPair p v).schedule = s.schedule := by
  cases p <;> rfl
@[simp] theorem State.setPair_portQueue (s : State) (p : Pair) (v : Word) :
    (s.setPair p v).portQueue = s.portQueue := by
  cases p <;> rfl
@[simp] theorem State.setPair_draws (s : State) (p : Pair) (v : Word) : (s.setPair p v).draws = s.draws := by
  cases p <;> rfl
@[simp] theorem State.setPair_byteAt (s : State) (p : Pair) (v : Word) (b : Word) : (s.setPair p v).byteAt b = s.byteAt b := by
  cases p <;> rfl
@[simp] theorem State.setPair_stored (s : State) (p : Pair) (v : Word) (b : Word) (u : Byte) :
    (s.setPair p v).stored b u = s.stored b u := by
  cases p <;> rfl
@[simp] theorem State.setPair_inv (s : State) (p : Pair) (v : Word) : (s.setPair p v).Inv ↔ s.Inv := by
  simp [State.Inv]
@[simp] theorem State.setPair_inRom (s : State) (p : Pair) (v : Word) (b : Word) : (s.setPair p v).inRom b = s.inRom b := by
  cases p <;> rfl
@[simp] theorem State.setPair_portByte (s : State) (p : Pair) (v : Word) (port : Word) : (s.setPair p v).portByte port = s.portByte port := by
  cases p <;> rfl

/-! ## `setStackPair` -/

@[simp] theorem State.setStackPair_eiLast (s : State) (p : StackPair) (v : Word) :
    (s.setStackPair p v).eiLast = s.eiLast := by
  cases p <;> rfl
@[simp] theorem State.setStackPair_mem (s : State) (p : StackPair) (v : Word) : (s.setStackPair p v).mem = s.mem := by
  cases p <;> rfl
@[simp] theorem State.setStackPair_trace (s : State) (p : StackPair) (v : Word) :
    (s.setStackPair p v).trace = s.trace := by
  cases p <;> rfl
@[simp] theorem State.setStackPair_params (s : State) (p : StackPair) (v : Word) :
    (s.setStackPair p v).params = s.params := by
  cases p <;> rfl
@[simp] theorem State.setStackPair_schedule (s : State) (p : StackPair) (v : Word) :
    (s.setStackPair p v).schedule = s.schedule := by
  cases p <;> rfl
@[simp] theorem State.setStackPair_portQueue (s : State) (p : StackPair) (v : Word) :
    (s.setStackPair p v).portQueue = s.portQueue := by
  cases p <;> rfl
@[simp] theorem State.setStackPair_draws (s : State) (p : StackPair) (v : Word) :
    (s.setStackPair p v).draws = s.draws := by
  cases p <;> rfl
@[simp] theorem State.setStackPair_byteAt (s : State) (p : StackPair) (v : Word) (b : Word) : (s.setStackPair p v).byteAt b = s.byteAt b := by
  cases p <;> rfl
@[simp] theorem State.setStackPair_stored (s : State) (p : StackPair) (v : Word) (b : Word) (u : Byte) :
    (s.setStackPair p v).stored b u = s.stored b u := by
  cases p <;> rfl
@[simp] theorem State.setStackPair_inv (s : State) (p : StackPair) (v : Word) : (s.setStackPair p v).Inv ↔ s.Inv := by
  simp [State.Inv]
@[simp] theorem State.setStackPair_inRom (s : State) (p : StackPair) (v : Word) (b : Word) : (s.setStackPair p v).inRom b = s.inRom b := by
  cases p <;> rfl
@[simp] theorem State.setStackPair_portByte (s : State) (p : StackPair) (v : Word) (port : Word) : (s.setStackPair p v).portByte port = s.portByte port := by
  cases p <;> rfl

/-! ## `setIndex` -/

@[simp] theorem State.setIndex_eiLast (s : State) (x : Index) (v : Word) : (s.setIndex x v).eiLast = s.eiLast := by
  cases x <;> rfl
@[simp] theorem State.setIndex_mem (s : State) (x : Index) (v : Word) : (s.setIndex x v).mem = s.mem := by
  cases x <;> rfl
@[simp] theorem State.setIndex_trace (s : State) (x : Index) (v : Word) : (s.setIndex x v).trace = s.trace := by
  cases x <;> rfl
@[simp] theorem State.setIndex_params (s : State) (x : Index) (v : Word) : (s.setIndex x v).params = s.params := by
  cases x <;> rfl
@[simp] theorem State.setIndex_schedule (s : State) (x : Index) (v : Word) :
    (s.setIndex x v).schedule = s.schedule := by
  cases x <;> rfl
@[simp] theorem State.setIndex_portQueue (s : State) (x : Index) (v : Word) :
    (s.setIndex x v).portQueue = s.portQueue := by
  cases x <;> rfl
@[simp] theorem State.setIndex_draws (s : State) (x : Index) (v : Word) : (s.setIndex x v).draws = s.draws := by
  cases x <;> rfl
@[simp] theorem State.setIndex_byteAt (s : State) (x : Index) (v : Word) (b : Word) : (s.setIndex x v).byteAt b = s.byteAt b := by
  cases x <;> rfl
@[simp] theorem State.setIndex_stored (s : State) (x : Index) (v : Word) (b : Word) (u : Byte) :
    (s.setIndex x v).stored b u = s.stored b u := by
  cases x <;> rfl
@[simp] theorem State.setIndex_inv (s : State) (x : Index) (v : Word) : (s.setIndex x v).Inv ↔ s.Inv := by
  simp [State.Inv]
@[simp] theorem State.setIndex_inRom (s : State) (x : Index) (v : Word) (b : Word) : (s.setIndex x v).inRom b = s.inRom b := by
  cases x <;> rfl
@[simp] theorem State.setIndex_portByte (s : State) (x : Index) (v : Word) (port : Word) : (s.setIndex x v).portByte port = s.portByte port := by
  cases x <;> rfl

/-! ## `setIndexHigh` -/

@[simp] theorem State.setIndexHigh_eiLast (s : State) (x : Index) (v : Byte) :
    (s.setIndexHigh x v).eiLast = s.eiLast := by
  cases x <;> rfl
@[simp] theorem State.setIndexHigh_mem (s : State) (x : Index) (v : Byte) : (s.setIndexHigh x v).mem = s.mem := by
  cases x <;> rfl
@[simp] theorem State.setIndexHigh_trace (s : State) (x : Index) (v : Byte) :
    (s.setIndexHigh x v).trace = s.trace := by
  cases x <;> rfl
@[simp] theorem State.setIndexHigh_params (s : State) (x : Index) (v : Byte) :
    (s.setIndexHigh x v).params = s.params := by
  cases x <;> rfl
@[simp] theorem State.setIndexHigh_schedule (s : State) (x : Index) (v : Byte) :
    (s.setIndexHigh x v).schedule = s.schedule := by
  cases x <;> rfl
@[simp] theorem State.setIndexHigh_portQueue (s : State) (x : Index) (v : Byte) :
    (s.setIndexHigh x v).portQueue = s.portQueue := by
  cases x <;> rfl
@[simp] theorem State.setIndexHigh_draws (s : State) (x : Index) (v : Byte) :
    (s.setIndexHigh x v).draws = s.draws := by
  cases x <;> rfl
@[simp] theorem State.setIndexHigh_byteAt (s : State) (x : Index) (v : Byte) (b : Word) : (s.setIndexHigh x v).byteAt b = s.byteAt b := by
  cases x <;> rfl
@[simp] theorem State.setIndexHigh_stored (s : State) (x : Index) (v : Byte) (b : Word) (u : Byte) :
    (s.setIndexHigh x v).stored b u = s.stored b u := by
  cases x <;> rfl
@[simp] theorem State.setIndexHigh_inv (s : State) (x : Index) (v : Byte) : (s.setIndexHigh x v).Inv ↔ s.Inv := by
  simp [State.Inv]
@[simp] theorem State.setIndexHigh_inRom (s : State) (x : Index) (v : Byte) (b : Word) : (s.setIndexHigh x v).inRom b = s.inRom b := by
  cases x <;> rfl
@[simp] theorem State.setIndexHigh_portByte (s : State) (x : Index) (v : Byte) (port : Word) : (s.setIndexHigh x v).portByte port = s.portByte port := by
  cases x <;> rfl

/-! ## `setIndexLow` -/

@[simp] theorem State.setIndexLow_eiLast (s : State) (x : Index) (v : Byte) :
    (s.setIndexLow x v).eiLast = s.eiLast := by
  cases x <;> rfl
@[simp] theorem State.setIndexLow_mem (s : State) (x : Index) (v : Byte) : (s.setIndexLow x v).mem = s.mem := by
  cases x <;> rfl
@[simp] theorem State.setIndexLow_trace (s : State) (x : Index) (v : Byte) : (s.setIndexLow x v).trace = s.trace := by
  cases x <;> rfl
@[simp] theorem State.setIndexLow_params (s : State) (x : Index) (v : Byte) :
    (s.setIndexLow x v).params = s.params := by
  cases x <;> rfl
@[simp] theorem State.setIndexLow_schedule (s : State) (x : Index) (v : Byte) :
    (s.setIndexLow x v).schedule = s.schedule := by
  cases x <;> rfl
@[simp] theorem State.setIndexLow_portQueue (s : State) (x : Index) (v : Byte) :
    (s.setIndexLow x v).portQueue = s.portQueue := by
  cases x <;> rfl
@[simp] theorem State.setIndexLow_draws (s : State) (x : Index) (v : Byte) : (s.setIndexLow x v).draws = s.draws := by
  cases x <;> rfl
@[simp] theorem State.setIndexLow_byteAt (s : State) (x : Index) (v : Byte) (b : Word) : (s.setIndexLow x v).byteAt b = s.byteAt b := by
  cases x <;> rfl
@[simp] theorem State.setIndexLow_stored (s : State) (x : Index) (v : Byte) (b : Word) (u : Byte) :
    (s.setIndexLow x v).stored b u = s.stored b u := by
  cases x <;> rfl
@[simp] theorem State.setIndexLow_inv (s : State) (x : Index) (v : Byte) : (s.setIndexLow x v).Inv ↔ s.Inv := by
  simp [State.Inv]
@[simp] theorem State.setIndexLow_inRom (s : State) (x : Index) (v : Byte) (b : Word) : (s.setIndexLow x v).inRom b = s.inRom b := by
  cases x <;> rfl
@[simp] theorem State.setIndexLow_portByte (s : State) (x : Index) (v : Byte) (port : Word) : (s.setIndexLow x v).portByte port = s.portByte port := by
  cases x <;> rfl

/-! ## `latchEa` -/

@[simp] theorem State.latchEa_regs (s : State) (x : Index) (d : Byte) :
    (s.latchEa x d).regs = { s.regs with memptr := s.ea x d } := rfl
@[simp] theorem State.latchEa_eiLast (s : State) (x : Index) (d : Byte) : (s.latchEa x d).eiLast = s.eiLast := rfl
@[simp] theorem State.latchEa_mem (s : State) (x : Index) (d : Byte) : (s.latchEa x d).mem = s.mem := rfl
@[simp] theorem State.latchEa_trace (s : State) (x : Index) (d : Byte) : (s.latchEa x d).trace = s.trace := rfl
@[simp] theorem State.latchEa_params (s : State) (x : Index) (d : Byte) : (s.latchEa x d).params = s.params := rfl
@[simp] theorem State.latchEa_schedule (s : State) (x : Index) (d : Byte) :
    (s.latchEa x d).schedule = s.schedule := rfl
@[simp] theorem State.latchEa_portQueue (s : State) (x : Index) (d : Byte) :
    (s.latchEa x d).portQueue = s.portQueue := rfl
@[simp] theorem State.latchEa_draws (s : State) (x : Index) (d : Byte) : (s.latchEa x d).draws = s.draws := rfl
@[simp] theorem State.latchEa_byteAt (s : State) (x : Index) (d : Byte) (b : Word) : (s.latchEa x d).byteAt b = s.byteAt b := rfl
@[simp] theorem State.latchEa_stored (s : State) (x : Index) (d : Byte) (b : Word) (u : Byte) :
    (s.latchEa x d).stored b u = s.stored b u := rfl
@[simp] theorem State.latchEa_inv (s : State) (x : Index) (d : Byte) : (s.latchEa x d).Inv ↔ s.Inv := by
  simp [State.Inv]
@[simp] theorem State.latchEa_inRom (s : State) (x : Index) (d : Byte) (b : Word) : (s.latchEa x d).inRom b = s.inRom b := rfl
@[simp] theorem State.latchEa_portByte (s : State) (x : Index) (d : Byte) (port : Word) : (s.latchEa x d).portByte port = s.portByte port := rfl

/-! ## `setIm` -/

@[simp] theorem State.setIm_regs (s : State) (m : IntMode) : (s.setIm m).regs = { s.regs with im := m } := rfl
@[simp] theorem State.setIm_eiLast (s : State) (m : IntMode) : (s.setIm m).eiLast = s.eiLast := rfl
@[simp] theorem State.setIm_mem (s : State) (m : IntMode) : (s.setIm m).mem = s.mem := rfl
@[simp] theorem State.setIm_trace (s : State) (m : IntMode) : (s.setIm m).trace = s.trace := rfl
@[simp] theorem State.setIm_params (s : State) (m : IntMode) : (s.setIm m).params = s.params := rfl
@[simp] theorem State.setIm_schedule (s : State) (m : IntMode) : (s.setIm m).schedule = s.schedule := rfl
@[simp] theorem State.setIm_portQueue (s : State) (m : IntMode) : (s.setIm m).portQueue = s.portQueue := rfl
@[simp] theorem State.setIm_draws (s : State) (m : IntMode) : (s.setIm m).draws = s.draws := rfl
@[simp] theorem State.setIm_byteAt (s : State) (m : IntMode) (b : Word) : (s.setIm m).byteAt b = s.byteAt b := rfl
@[simp] theorem State.setIm_stored (s : State) (m : IntMode) (b : Word) (u : Byte) :
    (s.setIm m).stored b u = s.stored b u := rfl
@[simp] theorem State.setIm_inv (s : State) (m : IntMode) : (s.setIm m).Inv ↔ s.Inv := by
  simp [State.Inv]
@[simp] theorem State.setIm_inRom (s : State) (m : IntMode) (b : Word) : (s.setIm m).inRom b = s.inRom b := rfl
@[simp] theorem State.setIm_portByte (s : State) (m : IntMode) (port : Word) : (s.setIm m).portByte port = s.portByte port := rfl

/-! ## `jumpTo` -/

@[simp] theorem State.jumpTo_regs (s : State) (a : Word) :
    (s.jumpTo a).regs = { s.regs with pc := a, memptr := a } := rfl
@[simp] theorem State.jumpTo_eiLast (s : State) (a : Word) : (s.jumpTo a).eiLast = s.eiLast := rfl
@[simp] theorem State.jumpTo_mem (s : State) (a : Word) : (s.jumpTo a).mem = s.mem := rfl
@[simp] theorem State.jumpTo_trace (s : State) (a : Word) : (s.jumpTo a).trace = s.trace := rfl
@[simp] theorem State.jumpTo_params (s : State) (a : Word) : (s.jumpTo a).params = s.params := rfl
@[simp] theorem State.jumpTo_schedule (s : State) (a : Word) : (s.jumpTo a).schedule = s.schedule := rfl
@[simp] theorem State.jumpTo_portQueue (s : State) (a : Word) : (s.jumpTo a).portQueue = s.portQueue := rfl
@[simp] theorem State.jumpTo_draws (s : State) (a : Word) : (s.jumpTo a).draws = s.draws := rfl
@[simp] theorem State.jumpTo_byteAt (s : State) (a : Word) (b : Word) : (s.jumpTo a).byteAt b = s.byteAt b := rfl
@[simp] theorem State.jumpTo_stored (s : State) (a : Word) (b : Word) (u : Byte) :
    (s.jumpTo a).stored b u = s.stored b u := rfl
@[simp] theorem State.jumpTo_inv (s : State) (a : Word) : (s.jumpTo a).Inv ↔ s.Inv := by
  simp [State.Inv]
@[simp] theorem State.jumpTo_inRom (s : State) (a : Word) (b : Word) : (s.jumpTo a).inRom b = s.inRom b := rfl
@[simp] theorem State.jumpTo_portByte (s : State) (a : Word) (port : Word) : (s.jumpTo a).portByte port = s.portByte port := rfl

/-! ## `bumpPc` -/

@[simp] theorem State.bumpPc_regs (s : State) : (s.bumpPc).regs = { s.regs with pc := s.regs.pc + 1 } := rfl
@[simp] theorem State.bumpPc_eiLast (s : State) : (s.bumpPc).eiLast = s.eiLast := rfl
@[simp] theorem State.bumpPc_mem (s : State) : (s.bumpPc).mem = s.mem := rfl
@[simp] theorem State.bumpPc_trace (s : State) : (s.bumpPc).trace = s.trace := rfl
@[simp] theorem State.bumpPc_params (s : State) : (s.bumpPc).params = s.params := rfl
@[simp] theorem State.bumpPc_schedule (s : State) : (s.bumpPc).schedule = s.schedule := rfl
@[simp] theorem State.bumpPc_portQueue (s : State) : (s.bumpPc).portQueue = s.portQueue := rfl
@[simp] theorem State.bumpPc_draws (s : State) : (s.bumpPc).draws = s.draws := rfl
@[simp] theorem State.bumpPc_byteAt (s : State) (b : Word) : (s.bumpPc).byteAt b = s.byteAt b := rfl
@[simp] theorem State.bumpPc_stored (s : State) (b : Word) (u : Byte) :
    (s.bumpPc).stored b u = s.stored b u := rfl
@[simp] theorem State.bumpPc_inv (s : State) : (s.bumpPc).Inv ↔ s.Inv := by
  simp [State.Inv]
@[simp] theorem State.bumpPc_inRom (s : State) (b : Word) : (s.bumpPc).inRom b = s.inRom b := rfl
@[simp] theorem State.bumpPc_portByte (s : State) (port : Word) : (s.bumpPc).portByte port = s.portByte port := rfl

/-! ## The bytes after a bus write -/

theorem State.busWrite_inv {s : State} (h : s.Inv) (a : Word) (v : Byte) : (s.busWrite a v).Inv :=
  State.stored_wf h a v

/-- The bytes after a bus write: the byte written unless the address is in `ROM_SET`, the old byte elsewhere. -/
theorem State.busWrite_byteAt {s : State} (h : s.Inv) (a b : Word) (v : Byte) :
    (s.busWrite a v).byteAt b = if b = a ∧ s.inRom a = false then v else s.byteAt b := State.read_stored h a b v

end Sys2Proof.Machine
end

