-- ==== Sys2Proof/Laws/Flags.lean ====
section
/-!
SUPPORT. Each ALU and flag function of Flags.lean is its closed form of Safety.lean (40_alu_flags.md R175): one
lemma for each.
-/

namespace Sys2Proof.Machine

/-! ## Masks and tables as single bits -/

theorem and_flagC (f : Byte) : f &&& flagC = flagIf (f.getLsbD 0) flagC := by revert f; decide +kernel

theorem and_flagsSZP (f : Byte) : f &&& (flagS ||| flagZ ||| flagPV) =
    flagIf (f.getLsbD 7) flagS ||| flagIf (f.getLsbD 6) flagZ ||| flagIf (f.getLsbD 2) flagPV := by
  revert f; decide +kernel

theorem and_flagsSZC (f : Byte) : f &&& (flagS ||| flagZ ||| flagC) =
    flagIf (f.getLsbD 7) flagS ||| flagIf (f.getLsbD 6) flagZ ||| flagIf (f.getLsbD 0) flagC := by
  revert f; decide +kernel

theorem and_flagsSZPC (f : Byte) : f &&& (flagS ||| flagZ ||| flagPV ||| flagC) =
    flagIf (f.getLsbD 7) flagS ||| flagIf (f.getLsbD 6) flagZ ||| flagIf (f.getLsbD 2) flagPV
      ||| flagIf (f.getLsbD 0) flagC := by
  revert f; decide +kernel

theorem and_flagsX (v : Byte) : v &&& (flagX5 ||| flagX3) =
    flagIf (v.getLsbD 5) flagX5 ||| flagIf (v.getLsbD 3) flagX3 := by revert v; decide +kernel

theorem and_flagsSX (v : Byte) : v &&& (flagS ||| flagX5 ||| flagX3) =
    flagIf (v.getLsbD 7) flagS ||| flagIf (v.getLsbD 5) flagX5 ||| flagIf (v.getLsbD 3) flagX3 := by
  revert v; decide +kernel

theorem and_flagS (v : Byte) : v &&& flagS = flagIf v.msb flagS := by revert v; decide +kernel

/-- `sz53` bit by bit (R170). -/
theorem sz53_eq (v : Byte) : sz53 v =
    flagIf v.msb flagS ||| flagIf (v == 0) flagZ ||| flagIf (v.getLsbD 5) flagX5 ||| flagIf (v.getLsbD 3) flagX3 := by
  revert v; decide +kernel

/-- Parity is an even count of ones (R171). -/
theorem evenOnes_eq (v : Byte) : evenOnes v = even v := by revert v; decide +kernel

theorem parity_eq (v : Byte) : parity v = flagIf (even v) flagPV := by rw [parity, evenOnes_eq]

theorem sz53p_eq (v : Byte) : sz53p v =
    flagIf v.msb flagS ||| flagIf (v == 0) flagZ ||| flagIf (v.getLsbD 5) flagX5 ||| flagIf (v.getLsbD 3) flagX3
      ||| flagIf (even v) flagPV := by
  rw [sz53p, sz53_eq, parity_eq]

@[simp] theorem flagIf_true (m : Byte) : flagIf true m = m := rfl
@[simp] theorem flagIf_false (m : Byte) : flagIf false m = 0 := rfl

/-! ## One-byte functions -/

theorem rotated_eq (r : Byte) (c : Bool) : rotated r c = (r, logicFlags r false c) := by
  simp only [rotated, sz53p_eq, logicFlags, flagByte, flagIf_false]
  congr 1; ac_rfl

/-- The rotate function of each operation (R183). -/
def RotOp.fn : RotOp → Byte → Bool → Byte × Byte
  | .rlc => rlc8
  | .rrc => rrc8
  | .rl => rl8
  | .rr => rr8
  | .sla => sla8
  | .sra => sra8
  | .sll => sll8
  | .srl => srl8

/-- R183. -/
theorem RotOp.fn_eq (op : RotOp) (v : Byte) (c : Bool) : op.fn v c = (op.result v c, op.flags v c) := by
  cases op <;> simp only [RotOp.fn, rlc8, rrc8, rl8, rr8, sla8, sra8, sll8, srl8, rotated_eq, RotOp.flags] <;>
    revert v c <;> decide +kernel

/-- The function of INC or DEC (R181, R182). -/
def IncOp.fn : IncOp → Byte → Byte → Byte × Byte
  | .inc => inc8
  | .dec => dec8

/-- R181, R182. -/
theorem IncOp.fn_eq (op : IncOp) (v f : Byte) : op.fn v f = (op.result v, op.flags v f) := by
  cases op
  · simp only [IncOp.fn, inc8, and_flagC, IncOp.flags, IncOp.result]
    generalize f.getLsbD 0 = c
    revert v c; decide +kernel
  · simp only [IncOp.fn, dec8, and_flagC, IncOp.flags, IncOp.result]
    generalize f.getLsbD 0 = c
    revert v c; decide +kernel

/-- R370 to R373. -/
theorem accRotateFlags_eq (r f : Byte) (c : Bool) : accRotateFlags r f c = accFlags r f c := by
  simp only [accRotateFlags, accFlags, and_flagsSZP, and_flagsX, flagByte, flagIf_false]
  ac_rfl

/-- R184. -/
theorem bitFlags_eq (b : BitVec 3) (v x f : Byte) : bitFlags b v x f = testFlags b v x f := by
  simp only [bitFlags, testFlags, and_flagC, and_flagsX, flagByte]
  generalize v.getLsbD b.toNat = one
  generalize f.getLsbD 0 = c
  generalize x.getLsbD 5 = x5
  generalize x.getLsbD 3 = x3
  generalize (b == 7) = t
  revert one c x5 x3 t; decide +kernel

/-- R389. -/
theorem clearBit_eq (b : BitVec 3) (v : Byte) : clearBit b v = bitOff b v := by revert b v; decide +kernel

/-- R391. -/
theorem raiseBit_eq (b : BitVec 3) (v : Byte) : raiseBit b v = bitOn b v := by revert b v; decide +kernel

/-- R330, R335. -/
theorem loadIRFlags_eq (v f : Byte) (p : Bool) : loadIRFlags v f p =
    flagByte v.msb (v == 0) (v.getLsbD 5) false (v.getLsbD 3) p false (f.getLsbD 0) := by
  simp only [loadIRFlags, and_flagC, sz53_eq, flagByte, flagIf_false]
  ac_rfl

/-- R393, R394, R432, R433. -/
theorem inputFlags_eq (v f : Byte) : inputFlags v f = readFlags v f := by
  simp only [inputFlags, and_flagC, sz53p_eq, readFlags, logicFlags, flagByte, flagIf_false]
  ac_rfl

/-- R323. -/
theorem ccfFlags_eq (a f : Byte) : ccfFlags a f =
    flagByte (f.getLsbD 7) (f.getLsbD 6) (a.getLsbD 5) (f.getLsbD 0) (a.getLsbD 3) (f.getLsbD 2) false
      (!f.getLsbD 0) := by
  simp only [ccfFlags, and_flagsSZP, and_flagsX, flagByte, flagIf_false]
  ac_rfl

/-- R324. -/
theorem scfFlags_eq (a f : Byte) : scfFlags a f =
    flagByte (f.getLsbD 7) (f.getLsbD 6) (a.getLsbD 5) false (a.getLsbD 3) (f.getLsbD 2) false true := by
  simp only [scfFlags, and_flagsSZP, and_flagsX, flagByte, flagIf_false, flagIf_true]
  ac_rfl

/-- R321. -/
theorem cpl8_eq (a f : Byte) : cpl8 a f =
    (~~~a, flagByte (f.getLsbD 7) (f.getLsbD 6) ((~~~a).getLsbD 5) true ((~~~a).getLsbD 3) (f.getLsbD 2) true
      (f.getLsbD 0)) := by
  have h : a ^^^ 0xFF = ~~~a := by revert a; decide +kernel
  simp only [cpl8, h, and_flagsSZPC, and_flagsX, flagByte, flagIf_true]
  congr 1; ac_rfl

/-- R265, R266. -/
theorem blockLoadFlags_eq (a v f : Byte) (bc : Word) : blockLoadFlags a v f bc = copyFlags a v f (bc != 0) := by
  simp only [blockLoadFlags, copyFlags, and_flagsSZC, flagByte, flagIf_false]
  ac_rfl

/-- R436, R437, R440, R441. -/
theorem blockIoFlags_eq (v addend b : Byte) : blockIoFlags v addend b = portFlags v addend b := by
  have h : ∀ k : Nat, BitVec.ofNat 8 k &&& 7 = BitVec.ofNat 8 (k % 8) := by
    intro k
    apply BitVec.eq_of_toNat_eq
    have h7 : BitVec.toNat (7 : Byte) = 2 ^ 3 - 1 := rfl
    rw [BitVec.toNat_and, h7, Nat.and_two_pow_sub_one_eq_mod]
    simp only [BitVec.toNat_ofNat]
    omega
  have hc : ∀ c : Bool, flagIf c (flagH ||| flagC) = flagIf c flagH ||| flagIf c flagC := by decide +kernel
  have h7 : v.getLsbD 7 = v.msb := by revert v; decide +kernel
  simp only [blockIoFlags, portFlags, h, hc, h7, parity_eq, sz53_eq, flagByte]
  ac_rfl

/-! ## Two-operand functions: the tables by carries -/

theorem lookup_eq (a b : Byte) (t : BitVec 9) : lookup a b t =
    flagIf (a.getLsbD 3) 1 ||| flagIf (a.getLsbD 7) 16 ||| (flagIf (b.getLsbD 3) 2 ||| flagIf (b.getLsbD 7) 32)
      ||| (flagIf (t.getLsbD 3) 4 ||| flagIf (t.getLsbD 7) 64) := by
  have ha : ∀ v : Byte, (v &&& 0x88) >>> 3 = flagIf (v.getLsbD 3) 1 ||| flagIf (v.getLsbD 7) 16 := by decide +kernel
  have hb : ∀ v : Byte, (v &&& 0x88) >>> 2 = flagIf (v.getLsbD 3) 2 ||| flagIf (v.getLsbD 7) 32 := by decide +kernel
  have ht : ∀ v : Byte, (v &&& 0x88) >>> 1 = flagIf (v.getLsbD 3) 4 ||| flagIf (v.getLsbD 7) 64 := by decide +kernel
  simp only [lookup, ha, hb, ht, BitVec.getLsbD_setWidth]
  simp

/-- The half-carry tables by the bits they are indexed with (R173, R174). -/
theorem entry_half (table : List Byte) (a b : Byte) (t : BitVec 9) (f : Bool → Bool → Bool → Bool)
    (h : ∀ p q r : Bool, entry table ((flagIf p 1 ||| flagIf q 2 ||| flagIf r 4 : Byte)).toNat = flagIf (f p q r) flagH) :
    entry table (lookup a b t &&& 7).toNat = flagIf (f (a.getLsbD 3) (b.getLsbD 3) (t.getLsbD 3)) flagH := by
  have hm : ∀ p q r x y z : Bool, (flagIf p 1 ||| flagIf x 16 ||| (flagIf q 2 ||| flagIf y 32)
      ||| (flagIf r 4 ||| flagIf z 64) : Byte) &&& 7 = flagIf p 1 ||| flagIf q 2 ||| flagIf r 4 := by decide +kernel
  rw [lookup_eq, hm, h]

/-- The overflow tables by the bits they are indexed with (R173, R174). -/
theorem entry_over (table : List Byte) (a b : Byte) (t : BitVec 9) (f : Bool → Bool → Bool → Bool)
    (h : ∀ p q r : Bool, entry table ((flagIf p 1 ||| flagIf q 2 ||| flagIf r 4 : Byte)).toNat = flagIf (f p q r) flagPV) :
    entry table (lookup a b t >>> 4).toNat = flagIf (f (a.getLsbD 7) (b.getLsbD 7) (t.getLsbD 7)) flagPV := by
  have hm : ∀ p q r x y z : Bool, (flagIf p 1 ||| flagIf x 16 ||| (flagIf q 2 ||| flagIf y 32)
      ||| (flagIf r 4 ||| flagIf z 64) : Byte) >>> 4 = flagIf x 1 ||| flagIf y 2 ||| flagIf z 4 := by decide +kernel
  rw [lookup_eq, hm, h]

theorem table_halfAdd : ∀ p q r : Bool, entry halfCarryAdd ((flagIf p 1 ||| flagIf q 2 ||| flagIf r 4 : Byte)).toNat
    = flagIf (p.atLeastTwo q (p ^^ q ^^ r)) flagH := by decide +kernel
theorem table_halfSub : ∀ p q r : Bool, entry halfCarrySub ((flagIf p 1 ||| flagIf q 2 ||| flagIf r 4 : Byte)).toNat
    = flagIf (!p.atLeastTwo (!q) (p ^^ !q ^^ r)) flagH := by decide +kernel
theorem table_overAdd : ∀ p q r : Bool, entry overflowAdd ((flagIf p 1 ||| flagIf q 2 ||| flagIf r 4 : Byte)).toNat
    = flagIf (p == q && r != p) flagPV := by decide +kernel
theorem table_overSub : ∀ p q r : Bool, entry overflowSub ((flagIf p 1 ||| flagIf q 2 ||| flagIf r 4 : Byte)).toNat
    = flagIf (p != q && r != p) flagPV := by decide +kernel

/-- The carry into bit 4 of a sum is bit 4 of the exclusive or of the operands and the result. -/
theorem sum9_bits (a b : Byte) (c : Bool) : (sum9 a b c).setWidth 8 = sumOf a b c
    ∧ (sum9 a b c).getLsbD 8 = decide (256 ≤ a.toNat + b.toNat + c.toNat)
    ∧ (a.getLsbD 3).atLeastTwo (b.getLsbD 3) (a.getLsbD 3 ^^ b.getLsbD 3 ^^ (sum9 a b c).getLsbD 3)
        = (a ^^^ b ^^^ sumOf a b c).getLsbD 4
    ∧ (sum9 a b c).getLsbD 7 = (sumOf a b c).msb := by
  have hr : (sum9 a b c).setWidth 8 = sumOf a b c := by
    apply BitVec.eq_of_toNat_eq
    cases c <;> simp [sum9, sumOf]
  have hbit : ∀ i, i < 9 → (sum9 a b c).getLsbD i = ((a.setWidth 9).getLsbD i ^^ ((b.setWidth 9).getLsbD i ^^
      BitVec.carry i (a.setWidth 9) (b.setWidth 9) c)) := fun i hi => BitVec.getLsbD_add_add_bool hi _ _ c
  have hlow : ∀ i, i < 8 → (sumOf a b c).getLsbD i = (sum9 a b c).getLsbD i := by
    intro i hi; rw [← hr, BitVec.getLsbD_setWidth]; simp [hi]
  refine ⟨hr, ?_, ?_, ?_⟩
  · rw [hbit 8 (by omega)]
    have ha := a.isLt
    have hb := b.isLt
    simp [BitVec.carry, Nat.mod_eq_of_lt ha, Nat.mod_eq_of_lt hb]
  · rw [BitVec.getLsbD_xor, BitVec.getLsbD_xor, hlow 4 (by omega), hbit 4 (by omega), hbit 3 (by omega),
      BitVec.carry_succ 3]
    simp only [BitVec.getLsbD_setWidth, show (decide (3 < 9)) = true from rfl, show (decide (4 < 9)) = true from rfl,
      Bool.true_and]
    generalize a.getLsbD 3 = p
    generalize b.getLsbD 3 = q
    generalize a.getLsbD 4 = u
    generalize b.getLsbD 4 = v
    generalize BitVec.carry 3 _ _ _ = k
    revert p q u v k; decide +kernel
  · rw [BitVec.msb_eq_getLsbD_last, hlow 7 (by omega)]

/-- The borrow into bit 4 of a difference is bit 4 of the exclusive or of the operands and the result. -/
theorem diff9_bits (a b : Byte) (c : Bool) : (diff9 a b c).setWidth 8 = diffOf a b c
    ∧ (diff9 a b c).getLsbD 8 = decide (a.toNat < b.toNat + c.toNat)
    ∧ (!(a.getLsbD 3).atLeastTwo (!b.getLsbD 3) (a.getLsbD 3 ^^ !b.getLsbD 3 ^^ (diff9 a b c).getLsbD 3))
        = (a ^^^ b ^^^ diffOf a b c).getLsbD 4
    ∧ (diff9 a b c).getLsbD 7 = (diffOf a b c).msb := by
  have hr : (diff9 a b c).setWidth 8 = diffOf a b c := by
    apply BitVec.eq_of_toNat_eq
    cases c <;> simp [diff9, diffOf, BitVec.toNat_sub] <;> omega
  have hsum : diff9 a b c = a.setWidth 9 + ~~~(b.setWidth 9) + (BitVec.ofBool (!c)).setWidth 9 := by
    apply BitVec.eq_of_toNat_eq
    have ha := a.isLt
    have hb := b.isLt
    cases c <;> simp [diff9, BitVec.toNat_sub, BitVec.toNat_not] <;> omega
  have hbit : ∀ i, i < 9 → (diff9 a b c).getLsbD i = ((a.setWidth 9).getLsbD i ^^ ((~~~(b.setWidth 9)).getLsbD i ^^
      BitVec.carry i (a.setWidth 9) (~~~(b.setWidth 9)) (!c))) := by
    intro i hi; rw [hsum]; exact BitVec.getLsbD_add_add_bool hi _ _ _
  have hlow : ∀ i, i < 8 → (diffOf a b c).getLsbD i = (diff9 a b c).getLsbD i := by
    intro i hi; rw [← hr, BitVec.getLsbD_setWidth]; simp [hi]
  refine ⟨hr, ?_, ?_, ?_⟩
  · rw [hbit 8 (by omega)]
    have ha := a.isLt
    have hb := b.isLt
    have h8 : (a.setWidth 9).getLsbD 8 = false ∧ (~~~(b.setWidth 9)).getLsbD 8 = true := by simp
    have hx : (a.setWidth 9).toNat % 2 ^ 8 = a.toNat := by simp only [BitVec.toNat_setWidth]; omega
    have hn : (!c).toNat = 1 - c.toNat := by cases c <;> rfl
    have hc := Bool.toNat_le c
    have hy : (~~~(b.setWidth 9)).toNat % 2 ^ 8 = 255 - b.toNat := by
      simp only [BitVec.toNat_not, BitVec.toNat_setWidth]; omega
    rw [h8.1, h8.2, BitVec.carry, hx, hy, hn, Bool.false_xor, Bool.true_xor, ← decide_not]
    exact decide_eq_decide.mpr (by omega)
  · rw [BitVec.getLsbD_xor, BitVec.getLsbD_xor, hlow 4 (by omega), hbit 4 (by omega), hbit 3 (by omega),
      BitVec.carry_succ 3]
    simp only [BitVec.getLsbD_not, BitVec.getLsbD_setWidth, show (decide (3 < 9)) = true from rfl,
      show (decide (4 < 9)) = true from rfl, Bool.true_and]
    generalize a.getLsbD 3 = p
    generalize b.getLsbD 3 = q
    generalize a.getLsbD 4 = u
    generalize b.getLsbD 4 = v
    generalize BitVec.carry 3 _ _ _ = k
    revert p q u v k; decide +kernel
  · rw [BitVec.msb_eq_getLsbD_last, hlow 7 (by omega)]

/-- R176. -/
theorem add8_eq (a b : Byte) (c : Bool) : add8 a b c = (sumOf a b c, addFlags a b c) := by
  obtain ⟨hr, hc, hh, h7⟩ := sum9_bits a b c
  simp only [add8, addFlags, hr, hc, sz53_eq, flagByte, flagIf_false,
    entry_half halfCarryAdd a b _ _ table_halfAdd, entry_over overflowAdd a b _ _ table_overAdd, hh, h7,
    BitVec.msb_eq_getLsbD_last]
  congr 1; ac_rfl

/-- R177. -/
theorem sub8_eq (a b : Byte) (c : Bool) : sub8 a b c = (diffOf a b c, subFlags a b c (diffOf a b c)) := by
  obtain ⟨hr, hc, hh, h7⟩ := diff9_bits a b c
  simp only [sub8, subFlags, hr, hc, sz53_eq, flagByte, flagIf_true,
    entry_half halfCarrySub a b _ _ table_halfSub, entry_over overflowSub a b _ _ table_overSub, hh, h7,
    BitVec.msb_eq_getLsbD_last]
  congr 1; ac_rfl

theorem flagByte_setX (s z x h y p n c x' y' : Bool) :
    (flagByte s z x h y p n c &&& ~~~(flagX5 ||| flagX3)) ||| (flagIf x' flagX5 ||| flagIf y' flagX3)
      = flagByte s z x' h y' p n c := by
  revert s z x h y p n c x' y'; decide +kernel

/-- R178. -/
theorem cp8_eq (a b : Byte) : cp8 a b = subFlags a b false b := by
  rw [cp8, sub8_eq, and_flagsX]
  exact flagByte_setX _ _ _ _ _ _ _ _ _ _

/-- R179, R180. -/
theorem and8_eq (a b : Byte) : and8 a b = (a &&& b, logicFlags (a &&& b) true false) := by
  simp only [and8, sz53p_eq, logicFlags, flagByte, flagIf_false, flagIf_true]
  congr 1; ac_rfl
theorem xor8_eq (a b : Byte) : xor8 a b = (a ^^^ b, logicFlags (a ^^^ b) false false) := by
  simp only [xor8, sz53p_eq, logicFlags, flagByte, flagIf_false]
  congr 1; ac_rfl
theorem or8_eq (a b : Byte) : or8 a b = (a ||| b, logicFlags (a ||| b) false false) := by
  simp only [or8, sz53p_eq, logicFlags, flagByte, flagIf_false]
  congr 1; ac_rfl

/-! ## DAA and block compare -/

theorem flagByte_setPC (s z x h y p n c p' c' : Bool) :
    (flagByte s z x h y p n c &&& ~~~(flagC ||| flagPV)) ||| flagIf c' flagC ||| flagIf p' flagPV
      = flagByte s z x h y p' n c' := by
  revert s z x h y p n c p' c'; decide +kernel

theorem sumOf_false (a b : Byte) : sumOf a b false = a + b := by
  apply BitVec.eq_of_toNat_eq; simp [sumOf]

theorem diffOf_false (a b : Byte) : diffOf a b false = a - b := by simp [diffOf]

theorem low_nibble (a : Byte) : (a &&& 0x0F).toNat = a.toNat % 16 := by revert a; decide +kernel

/-- R320. -/
theorem daa8_eq (a f : Byte) : daa8 a f = daaSpec a f := by
  have hk : daaCorrection a f = (BitVec.ofNat 8 ((if f.getLsbD 4 || decide (9 < a.toNat % 16) then 6 else 0)
      + (if f.getLsbD 0 || decide (0x99 < a.toNat) then 96 else 0)), f.getLsbD 0 || decide (0x99 < a.toNat)) := by
    simp only [daaCorrection, low_nibble]
    generalize (f.getLsbD 4 || decide (9 < a.toNat % 16)) = l
    generalize (f.getLsbD 0 || decide (0x99 < a.toNat)) = h
    cases l <;> cases h <;> rfl
  simp only [daa8, hk, daaSpec, add8_eq, sub8_eq, sumOf_false, diffOf_false, parity_eq]
  cases f.getLsbD 1
  · simp only [Bool.false_eq_true, if_false, addFlags, sumOf_false]
    congr 1; exact flagByte_setPC _ _ _ _ _ _ _ _ _ _
  · simp only [if_true, subFlags, diffOf_false]
    congr 1; exact flagByte_setPC _ _ _ _ _ _ _ _ _ _

/-- R269, R270. -/
theorem blockCompareFlags_eq (a v f : Byte) (bc : Word) :
    blockCompareFlags a v f bc = searchFlags a v f (bc != 0) := by
  obtain ⟨hr, -, hh, -⟩ := diff9_bits a v false
  have hn : ∀ h : Bool, (if flagIf h flagH == 0 then (0 : Byte) else 1) = BitVec.ofNat 8 h.toNat := by decide +kernel
  simp only [blockCompareFlags, searchFlags, hr, entry_half halfCarrySub a v _ _ table_halfSub, hh, hn, diffOf_false,
    and_flagC, and_flagS, flagByte, flagIf_true]
  ac_rfl

/-! ## Sixteen-bit functions -/

theorem and_flagsX16 (r : Word) : hi r &&& (flagX5 ||| flagX3) =
    flagIf (r.getLsbD 13) flagX5 ||| flagIf (r.getLsbD 11) flagX3 := by
  rw [and_flagsX]; simp [hi]

theorem and_flagsSX16 (r : Word) : hi r &&& (flagS ||| flagX5 ||| flagX3) =
    flagIf r.msb flagS ||| flagIf (r.getLsbD 13) flagX5 ||| flagIf (r.getLsbD 11) flagX3 := by
  rw [and_flagsSX, BitVec.msb_eq_getLsbD_last]; simp [hi]

theorem flagIf_getElem (c : Bool) (m : Byte) (i : Nat) (h : i < 8) : (flagIf c m)[i] = (c && m[i]) := by
  cases c <;> simp [flagIf]

theorem lookup16_low (a b : Word) (t : BitVec 17) : (lookup16 a b t &&& 7).toNat =
    (flagIf (a.getLsbD 11) 1 ||| flagIf (b.getLsbD 11) 2 ||| flagIf (t.getLsbD 11) 4 : Byte).toNat := by
  have h : lookup16 a b t &&& 7 =
      (flagIf (a.getLsbD 11) 1 ||| flagIf (b.getLsbD 11) 2 ||| flagIf (t.getLsbD 11) 4 : Byte).setWidth 16 := by
    apply BitVec.eq_of_getLsbD_eq
    intro i hi
    interval_cases i <;> simp [lookup16, flagIf_getElem]
  rw [h, BitVec.toNat_setWidth, Nat.mod_eq_of_lt]
  exact lt_trans (BitVec.isLt _) (by norm_num)

theorem lookup16_high (a b : Word) (t : BitVec 17) : (lookup16 a b t >>> 4).toNat =
    (flagIf (a.getLsbD 15) 1 ||| flagIf (b.getLsbD 15) 2 ||| flagIf (t.getLsbD 15) 4 : Byte).toNat := by
  have h : lookup16 a b t >>> 4 =
      (flagIf (a.getLsbD 15) 1 ||| flagIf (b.getLsbD 15) 2 ||| flagIf (t.getLsbD 15) 4 : Byte).setWidth 16 := by
    apply BitVec.eq_of_getLsbD_eq
    intro i hi
    interval_cases i <;> simp [lookup16, flagIf_getElem]
  rw [h, BitVec.toNat_setWidth, Nat.mod_eq_of_lt]
  exact lt_trans (BitVec.isLt _) (by norm_num)

/-- The sixteen-bit form of `sum9_bits`: bits 11, 12 and 15. -/
theorem sum17_bits (a b : Word) (c : Bool) : (sum17 a b c).setWidth 16 = sumOf16 a b c
    ∧ (sum17 a b c).getLsbD 16 = decide (65536 ≤ a.toNat + b.toNat + c.toNat)
    ∧ (a.getLsbD 11).atLeastTwo (b.getLsbD 11) (a.getLsbD 11 ^^ b.getLsbD 11 ^^ (sum17 a b c).getLsbD 11)
        = (a ^^^ b ^^^ sumOf16 a b c).getLsbD 12
    ∧ (sum17 a b c).getLsbD 15 = (sumOf16 a b c).msb := by
  have hr : (sum17 a b c).setWidth 16 = sumOf16 a b c := by
    apply BitVec.eq_of_toNat_eq
    cases c <;> simp [sum17, sumOf16]
  have hbit : ∀ i, i < 17 → (sum17 a b c).getLsbD i = ((a.setWidth 17).getLsbD i ^^ ((b.setWidth 17).getLsbD i ^^
      BitVec.carry i (a.setWidth 17) (b.setWidth 17) c)) := fun i hi => BitVec.getLsbD_add_add_bool hi _ _ c
  have hlow : ∀ i, i < 16 → (sumOf16 a b c).getLsbD i = (sum17 a b c).getLsbD i := by
    intro i hi; rw [← hr, BitVec.getLsbD_setWidth]; simp [hi]
  refine ⟨hr, ?_, ?_, ?_⟩
  · rw [hbit 16 (by omega)]
    have ha := a.isLt
    have hb := b.isLt
    simp [BitVec.carry, Nat.mod_eq_of_lt ha, Nat.mod_eq_of_lt hb]
  · rw [BitVec.getLsbD_xor, BitVec.getLsbD_xor, hlow 12 (by omega), hbit 12 (by omega), hbit 11 (by omega),
      BitVec.carry_succ 11]
    simp only [BitVec.getLsbD_setWidth, show (decide (11 < 17)) = true from rfl,
      show (decide (12 < 17)) = true from rfl, Bool.true_and]
    generalize a.getLsbD 11 = p
    generalize b.getLsbD 11 = q
    generalize a.getLsbD 12 = u
    generalize b.getLsbD 12 = v
    generalize BitVec.carry 11 _ _ _ = k
    revert p q u v k; decide +kernel
  · rw [BitVec.msb_eq_getLsbD_last, hlow 15 (by omega)]

/-- The sixteen-bit form of `diff9_bits`. -/
theorem diff17_bits (a b : Word) (c : Bool) : (diff17 a b c).setWidth 16 = diffOf16 a b c
    ∧ (diff17 a b c).getLsbD 16 = decide (a.toNat < b.toNat + c.toNat)
    ∧ (!(a.getLsbD 11).atLeastTwo (!b.getLsbD 11) (a.getLsbD 11 ^^ !b.getLsbD 11 ^^ (diff17 a b c).getLsbD 11))
        = (a ^^^ b ^^^ diffOf16 a b c).getLsbD 12
    ∧ (diff17 a b c).getLsbD 15 = (diffOf16 a b c).msb := by
  have hr : (diff17 a b c).setWidth 16 = diffOf16 a b c := by
    apply BitVec.eq_of_toNat_eq
    cases c <;> simp [diff17, diffOf16, BitVec.toNat_sub] <;> omega
  have hsum : diff17 a b c = a.setWidth 17 + ~~~(b.setWidth 17) + (BitVec.ofBool (!c)).setWidth 17 := by
    apply BitVec.eq_of_toNat_eq
    have ha := a.isLt
    have hb := b.isLt
    cases c <;> simp [diff17, BitVec.toNat_sub, BitVec.toNat_not] <;> omega
  have hbit : ∀ i, i < 17 → (diff17 a b c).getLsbD i = ((a.setWidth 17).getLsbD i ^^ ((~~~(b.setWidth 17)).getLsbD i ^^
      BitVec.carry i (a.setWidth 17) (~~~(b.setWidth 17)) (!c))) := by
    intro i hi; rw [hsum]; exact BitVec.getLsbD_add_add_bool hi _ _ _
  have hlow : ∀ i, i < 16 → (diffOf16 a b c).getLsbD i = (diff17 a b c).getLsbD i := by
    intro i hi; rw [← hr, BitVec.getLsbD_setWidth]; simp [hi]
  refine ⟨hr, ?_, ?_, ?_⟩
  · rw [hbit 16 (by omega)]
    have ha := a.isLt
    have hb := b.isLt
    have h8 : (a.setWidth 17).getLsbD 16 = false ∧ (~~~(b.setWidth 17)).getLsbD 16 = true := by simp
    have hx : (a.setWidth 17).toNat % 2 ^ 16 = a.toNat := by simp only [BitVec.toNat_setWidth]; omega
    have hn : (!c).toNat = 1 - c.toNat := by cases c <;> rfl
    have hc := Bool.toNat_le c
    have hy : (~~~(b.setWidth 17)).toNat % 2 ^ 16 = 65535 - b.toNat := by
      simp only [BitVec.toNat_not, BitVec.toNat_setWidth]; omega
    rw [h8.1, h8.2, BitVec.carry, hx, hy, hn, Bool.false_xor, Bool.true_xor, ← decide_not]
    exact decide_eq_decide.mpr (by omega)
  · rw [BitVec.getLsbD_xor, BitVec.getLsbD_xor, hlow 12 (by omega), hbit 12 (by omega), hbit 11 (by omega),
      BitVec.carry_succ 11]
    simp only [BitVec.getLsbD_not, BitVec.getLsbD_setWidth, show (decide (11 < 17)) = true from rfl,
      show (decide (12 < 17)) = true from rfl, Bool.true_and]
    generalize a.getLsbD 11 = p
    generalize b.getLsbD 11 = q
    generalize a.getLsbD 12 = u
    generalize b.getLsbD 12 = v
    generalize BitVec.carry 11 _ _ _ = k
    revert p q u v k; decide +kernel
  · rw [BitVec.msb_eq_getLsbD_last, hlow 15 (by omega)]

theorem sumOf16_false (a b : Word) : sumOf16 a b false = a + b := by
  apply BitVec.eq_of_toNat_eq; simp [sumOf16]

/-- R185. -/
theorem add16_eq (a b : Word) (f : Byte) : add16 a b f = (a + b, addFlags16 a b f) := by
  obtain ⟨hr, hc, hh, -⟩ := sum17_bits a b false
  rw [sumOf16_false] at hr hh
  simp only [add16, addFlags16, hr, hc, lookup16_low, table_halfAdd, hh, and_flagsSZP, and_flagsX16, flagByte,
    flagIf_false, Bool.toNat_false, Nat.add_zero]
  congr 1; ac_rfl

/-- R186. -/
theorem adc16_eq (a b : Word) (c : Bool) : adc16 a b c = (sumOf16 a b c, adcFlags16 a b c) := by
  obtain ⟨hr, hc, hh, h15⟩ := sum17_bits a b c
  simp only [adc16, adcFlags16, hr, hc, lookup16_low, lookup16_high, table_halfAdd, table_overAdd, hh, h15,
    and_flagsSX16, flagByte, flagIf_false, BitVec.msb_eq_getLsbD_last]
  congr 1; ac_rfl

/-- R186. -/
theorem sbc16_eq (a b : Word) (c : Bool) : sbc16 a b c = (diffOf16 a b c, sbcFlags16 a b c) := by
  obtain ⟨hr, hc, hh, h15⟩ := diff17_bits a b c
  simp only [sbc16, sbcFlags16, hr, hc, lookup16_low, lookup16_high, table_halfSub, table_overSub, hh, h15,
    and_flagsSX16, flagByte, flagIf_true, BitVec.msb_eq_getLsbD_last]
  congr 1; ac_rfl

end Sys2Proof.Machine
end

