-- ==== Sys2Proof/Laws/Ops.lean ====
section
/-!
SUPPORT. What the shared operations leave: the views of registers and of the register file are the same thing, and
one lemma per operation says its registers, its bytes and its events.
-/

namespace Sys2Proof.Machine

/-! ## The views of a state are those of its register file -/

theorem hi_eq (w : Word) : hi w = w.extractLsb' 8 8 := rfl
theorem lo_eq (w : Word) : lo w = w.extractLsb' 0 8 := rfl

@[simp] theorem extract_hi (h l : Byte) : (h ++ l).extractLsb' 8 8 = h := by
  apply BitVec.eq_of_getLsbD_eq
  intro i hi
  rw [BitVec.getLsbD_extractLsb', show (h ++ l).getLsbD (8 + i) = _ from BitVec.getLsbD_append]
  simp [hi]

@[simp] theorem extract_lo (h l : Byte) : (h ++ l).extractLsb' 0 8 = l := by
  apply BitVec.eq_of_getLsbD_eq
  intro i hi
  rw [BitVec.getLsbD_extractLsb', show (h ++ l).getLsbD (0 + i) = _ from BitVec.getLsbD_append]
  simp [hi]

@[simp] theorem hi_word (h l : Byte) : hi (word h l) = h := extract_hi h l
@[simp] theorem lo_word (h l : Byte) : lo (word h l) = l := extract_lo h l
@[simp] theorem word_hi_lo (w : Word) : word (hi w) (lo w) = w := by
  apply BitVec.eq_of_getLsbD_eq
  intro i hi
  rw [show (word _ _).getLsbD i = _ from BitVec.getLsbD_append]
  by_cases h : i < 8
  · simp [lo, h]
  · simp [Sys2Proof.hi, h, show i - 8 < 8 by omega, show 8 + (i - 8) = i by omega]

theorem State.reg8_eq (s : State) (r : Reg8) : s.reg8 r = s.regs.view r := by cases r <;> rfl
theorem State.regA_eq (s : State) : s.regA = s.regs.view .a := rfl
theorem State.regB_eq (s : State) : s.regB = s.regs.view .b := rfl
theorem State.regC_eq (s : State) : s.regC = s.regs.view .c := rfl
theorem State.regF_eq (s : State) : s.regF = s.regs.f := rfl
theorem State.carry_eq (s : State) : s.carry = s.regs.f.getLsbD 0 := rfl
theorem State.pair_eq (s : State) (p : Pair) : s.pair p = s.regs.rp p := by cases p <;> rfl
theorem State.stackPair_eq (s : State) (p : StackPair) : s.stackPair p = s.regs.rp2 p := by cases p <;> rfl
theorem State.index_eq (s : State) (x : Index) : s.index x = s.regs.xy x := by cases x <;> rfl
theorem State.indexHigh_eq (s : State) (x : Index) : s.indexHigh x = (s.regs.xy x).extractLsb' 8 8 := by
  cases x <;> rfl
theorem State.indexLow_eq (s : State) (x : Index) : s.indexLow x = (s.regs.xy x).extractLsb' 0 8 := by
  cases x <;> rfl
theorem State.indexPair_eq (s : State) (x : Index) (p : IndexPair) : s.indexPair x p = s.regs.addend x p := by
  cases p <;> cases x <;> rfl
theorem State.indexSrc_eq (s : State) (x : Index) (r : IndexSrc) : s.indexSrc x r = s.regs.source x r := by
  cases r <;> cases x <;> rfl

/-! ## What writing a register does -/

/-- An 8-bit register write sets that view alone (R32). -/
theorem State.setReg8_sets (s : State) (r : Reg8) (v : Byte) : Sets8 s.regs (s.setReg8 r v).regs r v := by
  refine ⟨?_, fun q hq => ?_, ?_, ?_⟩
  · cases r <;> simp only [State.setReg8, RegFile.view, ← hi_eq, ← lo_eq, hi_word, lo_word]
  · cases r <;> cases q <;>
      first
        | exact absurd rfl hq
        | simp only [State.setReg8, RegFile.view, ← hi_eq, ← lo_eq, hi_word, lo_word]
  · cases r <;> simp only [State.setReg8, RegFile.f, ← lo_eq, lo_word]
  · cases r <;> rfl

@[simp] theorem RegFile.withAF_f (g : RegFile) (v f : Byte) : (g.withAF v f).f = f := extract_lo v f
@[simp] theorem RegFile.withAF_a (g : RegFile) (v f : Byte) : (g.withAF v f).view .a = v := extract_hi v f

/-- An 8-bit register write after F has been set to `f`. -/
theorem Sets8.with_f {g g' : RegFile} {r : Reg8} {v f : Byte} (h : Sets8 g g' r v) (hf : g.f = f) :
    Sets8F g g' r v f := hf ▸ h

/-- A write of F, then of an 8-bit register (the order of INC r, the rotates and IN r,(C)). -/
theorem State.setF_setReg8_sets (s : State) (r : Reg8) (v f : Byte) :
    Sets8F (s.regs.withAF (s.regs.view .a) f) ((s.setF f).setReg8 r v).regs r v f :=
  ((s.setF f).setReg8_sets r v).with_f (extract_lo _ f)

/-- A pair write sets that pair alone. -/
theorem State.setPair_sets (s : State) (p : Pair) (v : Word) : Sets16 s.regs (s.setPair p v).regs p v := by
  refine ⟨by cases p <;> rfl, fun q hq => ?_, by cases p <;> rfl⟩
  cases p <;> cases q <;> first | exact absurd rfl hq | rfl

/-- A write of a pair of PUSH and POP sets that pair alone. -/
theorem State.setStackPair_sets (s : State) (p : StackPair) (v : Word) :
    Sets16S s.regs (s.setStackPair p v).regs p v := by
  refine ⟨by cases p <;> rfl, fun q hq => ?_, by cases p <;> rfl⟩
  cases p <;> cases q <;> first | exact absurd rfl hq | rfl

/-- An index register write sets that index register alone. -/
theorem State.setIndex_sets (s : State) (x : Index) (v : Word) : SetsIndex s.regs (s.setIndex x v).regs x v := by
  refine ⟨by cases x <;> rfl, fun q hq => ?_, by cases x <;> rfl⟩
  cases x <;> cases q <;> first | exact absurd rfl hq | rfl

/-! ## What an instruction leaves, taken apart and put together -/

theorem leaves_next {s t : State} {P : RegFile → Prop} {st : List (Word × Byte)} {ev : List Event} :
    Leaves (.next t) s P st ev ↔ P t.regs ∧ Frame s t st ev :=
  ⟨fun ⟨_, h, hp⟩ => by cases h; exact hp, fun h => ⟨t, rfl, h⟩⟩

/-- A frame from its parts. -/
theorem Frame.of_parts {s t : State} {st : List (Word × Byte)} {ev : List Event}
    (hb : ∀ a, t.byteAt a = s.afterStores st a) (ht : t.trace = ev.reverse ++ s.trace) (he : t.eiLast = s.eiLast)
    (hp : t.params = s.params) (hs : t.schedule = s.schedule) (hq : t.portQueue = s.portQueue)
    (hd : t.draws = s.draws) : Frame s t st ev := ⟨hb, ht, he, hp, hs, hq, hd⟩

theorem Frame.refl (s : State) : Frame s s [] [] := ⟨fun _ => rfl, rfl, rfl, rfl, rfl, rfl, rfl⟩

theorem Frame.inRom {s t : State} {st : List (Word × Byte)} {ev : List Event} (h : Frame s t st ev) (a : Word) :
    t.inRom a = s.inRom a := by unfold State.inRom; rw [h.2.2.2.1]

theorem State.afterStores_append (s : State) (st st' : List (Word × Byte)) (a : Word) :
    s.afterStores (st ++ st') a
      = st.foldr (fun p v => if a = p.1 ∧ s.inRom p.1 = false then p.2 else v) (s.afterStores st' a) := by
  induction st with
  | nil => rfl
  | cons p st ih => obtain ⟨b, v⟩ := p; simp only [List.cons_append, State.afterStores, List.foldr_cons, ih]

/-- Two frames one after the other: the later stores come first. -/
theorem Frame.trans {s t u : State} {st st' : List (Word × Byte)} {ev ev' : List Event} (h : Frame s t st ev)
    (h' : Frame t u st' ev') : Frame s u (st' ++ st) (ev ++ ev') := by
  obtain ⟨hb, ht, he, hp, hs, hq, hd⟩ := h
  have hr := Frame.inRom ⟨hb, ht, he, hp, hs, hq, hd⟩
  obtain ⟨hb', ht', he', hp', hs', hq', hd'⟩ := h'
  refine ⟨fun a => ?_, ?_, he'.trans he, hp'.trans hp, hs'.trans hs, hq'.trans hq, hd'.trans hd⟩
  · rw [hb', State.afterStores_append, ← hb a]
    clear hb' ht'
    induction st' with
    | nil => rfl
    | cons p st' ih => obtain ⟨b, v⟩ := p; simp only [State.afterStores, List.foldr_cons, hr, ih]
  · rw [ht', ht, List.reverse_append, List.append_assoc]

/-- An update of registers alone. -/
theorem Frame.of_regs {s t : State} (g : RegFile) (h : t = { s with regs := g }) : Frame s t [] [] := by
  subst h; exact ⟨fun _ => rfl, rfl, rfl, rfl, rfl, rfl, rfl⟩

theorem State.tick_frame (s : State) (n : Nat) : Frame s (s.tick n) [] (if n = 0 then [] else [.tick n]) := by
  refine ⟨fun a => by simp [State.afterStores], ?_, by simp, by simp, by simp, by simp, by simp⟩
  rw [State.tick_trace]; split <;> rfl

theorem State.busRead_frame (s : State) (a : Word) : Frame s (s.busRead a) [] (s.rd a) :=
  ⟨fun _ => rfl, rfl, rfl, rfl, rfl, rfl, rfl⟩

theorem State.busWrite_frame {s : State} (h : s.Inv) (a : Word) (v : Byte) :
    Frame s (s.busWrite a v) [(a, v)] (wr a v) :=
  ⟨fun b => State.busWrite_byteAt h a b v, rfl, rfl, rfl, rfl, rfl, rfl⟩

theorem State.portOut_frame (s : State) (p : Word) (v : Byte) : Frame s (s.portOut p v) [] (outp p v) :=
  ⟨fun _ => rfl, rfl, rfl, rfl, rfl, rfl, rfl⟩

theorem State.portIn_frame (s : State) (p : Word) : Frame s.answered (s.portIn p) [] (s.inp p) :=
  ⟨fun _ => rfl, rfl, rfl, rfl, rfl, rfl, rfl⟩

theorem State.setReg8_frame (s : State) (r : Reg8) (v : Byte) : Frame s (s.setReg8 r v) [] [] := by
  cases r <;> exact Frame.of_regs _ rfl

theorem State.setPair_frame (s : State) (p : Pair) (v : Word) : Frame s (s.setPair p v) [] [] := by
  cases p <;> exact Frame.of_regs _ rfl

theorem State.setStackPair_frame (s : State) (p : StackPair) (v : Word) : Frame s (s.setStackPair p v) [] [] := by
  cases p <;> exact Frame.of_regs _ rfl

theorem State.setIndex_frame (s : State) (x : Index) (v : Word) : Frame s (s.setIndex x v) [] [] := by
  cases x <;> exact Frame.of_regs _ rfl

theorem State.setMemptr_frame (s : State) (v : Word) : Frame s (s.setMemptr v) [] [] := Frame.of_regs _ rfl
theorem State.setPc_frame (s : State) (v : Word) : Frame s (s.setPc v) [] [] := Frame.of_regs _ rfl
theorem State.setIff_frame (s : State) (p q : Bool) : Frame s (s.setIff p q) [] [] := Frame.of_regs _ rfl
theorem State.setF_frame (s : State) (v : Byte) : Frame s (s.setF v) [] [] := Frame.of_regs _ rfl
theorem State.setAF_frame (s : State) (p : Byte × Byte) : Frame s (s.setAF p) [] [] := Frame.of_regs _ rfl

/-! ## The stack -/

/-- What a push leaves (R92). -/
theorem State.push16_frame {s : State} (h : s.Inv) (w : Word) :
    Frame s (s.push16 w) [(s.regs.sp - 2, lo w), (s.regs.sp - 1, hi w)]
      (wr (s.regs.sp - 1) (hi w) ++ wr (s.regs.sp - 2) (lo w)) := by
  have e : s.regs.sp - 2 = s.regs.sp - 1 - 1 := by bv_omega
  rw [e]
  exact ((Frame.of_regs _ rfl).trans (State.busWrite_frame (s := s.setSp (s.regs.sp - 1)) h _ (hi w))).trans
    ((Frame.of_regs _ rfl).trans (State.busWrite_frame
      (s := ((s.setSp (s.regs.sp - 1)).busWrite (s.regs.sp - 1) (hi w)).setSp (s.regs.sp - 1 - 1))
      (State.busWrite_inv (s := s.setSp (s.regs.sp - 1)) h _ _) _ (lo w)))

theorem State.push16_regs (s : State) (w : Word) : (s.push16 w).regs = { s.regs with sp := s.regs.sp - 2 } := by
  have e : s.regs.sp - 2 = s.regs.sp - 1 - 1 := by bv_omega
  rw [e]; rfl

/-- The events of a push (R92). -/
theorem State.push16_trace (s : State) (w : Word) : (s.push16 w).trace =
    (wr (s.regs.sp - 1) (hi w) ++ wr (s.regs.sp - 2) (lo w)).reverse ++ s.trace := by
  have e : s.regs.sp - 2 = s.regs.sp - 1 - 1 := by bv_omega
  rw [e]; rfl

theorem State.push16_inv {s : State} (h : s.Inv) (w : Word) : (s.push16 w).Inv :=
  State.busWrite_inv (s := ((s.setSp (s.regs.sp - 1)).busWrite (s.regs.sp - 1) (hi w)).setSp _)
    (State.busWrite_inv (s := s.setSp (s.regs.sp - 1)) h _ _) _ _

/-- What a pop leaves (R93). -/
theorem State.pop16_frame (s : State) : Frame s s.pop16 [] (s.rd s.regs.sp ++ s.rd (s.regs.sp + 1)) :=
  ⟨fun _ => rfl, rfl, rfl, rfl, rfl, rfl, rfl⟩

theorem State.pop16_regs (s : State) : s.pop16.regs = { s.regs with sp := s.regs.sp + 2 } := by
  have e : s.regs.sp + 2 = s.regs.sp + 1 + 1 := by bv_omega
  rw [e]; rfl

/-- The two stores of a push are to different addresses, so their order does not show. -/
theorem State.afterStores_swap (s : State) (a b : Word) (u v : Byte) (h : a ≠ b) (c : Word) :
    s.afterStores [(a, u), (b, v)] c = s.afterStores [(b, v), (a, u)] c := by
  simp only [State.afterStores]
  by_cases h1 : c = a <;> by_cases h2 : c = b <;> simp_all

/-! ## Undocumented encodings -/

theorem State.ifAdmitted_admitted {s : State} (h : s.params.undocAdmit = .admitted) (o : Result) :
    s.ifAdmitted o = o := by unfold State.ifAdmitted; rw [h]

theorem State.ifAdmitted_refused {s : State} (h : s.params.undocAdmit = .refused) (o : Result) :
    s.ifAdmitted o = .refused .undocumented := by unfold State.ifAdmitted; rw [h]

end Sys2Proof.Machine
end

