-- ==== Sys2Proof/Laws/Block.lean ====
section
/-!
SUPPORT. What the shared shapes of the exchanges, the block instructions and the block input and output leave.
-/

namespace Sys2Proof.Machine

theorem sub_one_bne_zero {n : Nat} (w : BitVec n) : (w - 1 != 0) = (w != 1) := by
  have h : (w - 1 == 0) = (w == 1) := by
    rw [Bool.eq_iff_iff]; simp only [beq_iff_eq]; exact sub_eq_zero
  simp only [bne, h]

theorem Direction.move_up : Direction.up.move = (· + 1) := rfl

theorem Direction.move_down : Direction.down.move = (· + (-1)) :=
  funext fun a => by show a - 1 = a + -1; exact sub_eq_add_neg a 1

/-- The four bus accesses of `EX (SP),rr` (R263). -/
theorem State.swapStack_frame {s : State} (h : s.Inv) (w : Word) :
    Frame s (s.swapStack w) [(s.regs.sp + 1, hi w), (s.regs.sp, lo w)]
      (s.rd s.regs.sp ++ s.rd (s.regs.sp + 1) ++ wr (s.regs.sp + 1) (hi w) ++ wr s.regs.sp (lo w)) := by
  have h1 : Frame s (s.busRead16 s.regs.sp) [] (s.rd s.regs.sp ++ s.rd (s.regs.sp + 1)) :=
    (s.busRead_frame _).trans ((s.busRead s.regs.sp).busRead_frame _)
  have h2 : (s.busRead16 s.regs.sp).Inv := by simpa [State.busRead16] using h
  obtain ⟨hb, hr⟩ := (h1.trans (State.busWrite_frame h2 (s.regs.sp + 1) (hi w))).trans
    (State.busWrite_frame (State.busWrite_inv h2 (s.regs.sp + 1) (hi w)) s.regs.sp (lo w))
  refine ⟨fun a => ?_, hr⟩
  rw [State.swapStack, hb]
  exact State.afterStores_swap _ _ _ _ _ (by bv_omega) _

theorem State.swapStack_regs (s : State) (w : Word) : (s.swapStack w).regs = s.regs := by
  simp [State.swapStack, State.busRead16]

/-! ## Block transfer and block compare -/

/-- The registers after LDI or LDD (R265, R266). -/
theorem State.blockLoad_regs (s : State) (d : Direction) : (s.blockLoad d).regs =
    { s.regs.withAF (s.regs.view .a)
        (copyFlags (s.regs.view .a) (s.byteAt s.regs.hl) s.regs.f (s.regs.bc != 1)) with
      hl := d.move s.regs.hl, de := d.move s.regs.de, bc := s.regs.bc - 1 } := by
  simp only [State.blockLoad, State.tick_regs, blockLoadFlags_eq, sub_one_bne_zero]
  rfl

/-- The store and the events of LDI or LDD (R265, R266). -/
theorem State.blockLoad_frame {s : State} (h : s.Inv) (d : Direction) :
    Frame s (s.blockLoad d) [(s.regs.de, s.byteAt s.regs.hl)]
      (s.rd s.regs.hl ++ wr s.regs.de (s.byteAt s.regs.hl) ++ [.tick 2]) :=
  ((s.busRead_frame _).trans (State.busWrite_frame (s := s.busRead s.regs.hl) h _ _)).trans
    ((Frame.of_regs _ rfl).trans (State.tick_frame _ 2))

/-- The registers after CPI or CPD (R269, R270). -/
theorem State.blockCompare_regs (s : State) (d : Direction) : (s.blockCompare d).regs =
    { s.regs.withAF (s.regs.view .a)
        (searchFlags (s.regs.view .a) (s.byteAt s.regs.hl) s.regs.f (s.regs.bc != 1)) with
      hl := d.move s.regs.hl, bc := s.regs.bc - 1, memptr := d.move s.regs.memptr } := by
  simp only [State.blockCompare, State.tick_regs, blockCompareFlags_eq, sub_one_bne_zero]
  rfl

/-- The events of CPI or CPD (R269, R270). -/
theorem State.blockCompare_frame (s : State) (d : Direction) :
    Frame s (s.blockCompare d) [] (s.rd s.regs.hl ++ [.tick 5]) :=
  (s.busRead_frame _).trans ((Frame.of_regs _ rfl).trans (State.tick_frame _ 5))

/-- The repeat test of CPIR and CPDR reads PV and Z of the new F: BC is not 0 and the byte is not A (R271). -/
theorem searchFlags_again (a v f : Byte) (left : Bool) :
    (searchFlags a v f left &&& (flagPV ||| flagZ) == flagPV) = (left && a != v) := by
  have h : (a - v == 0) = (a == v) := by rw [Bool.eq_iff_iff]; simp only [beq_iff_eq]; exact sub_eq_zero
  simp only [searchFlags, flagByte, h, bne]
  generalize (a == v) = z
  generalize (a - v).msb = b1
  generalize BitVec.getLsbD _ 1 = b2
  generalize BitVec.getLsbD _ 4 = b3
  generalize BitVec.getLsbD _ 3 = b4
  generalize BitVec.getLsbD _ 0 = b5
  revert z b1 b2 b3 b4 b5 left; decide

/-- The registers of a rewind (R264, R267). -/
theorem State.rewindLatch_regs (s : State) :
    s.rewindLatch.regs = { s.regs with pc := s.regs.pc - 2, memptr := s.regs.pc - 1 } := by
  have e : s.regs.pc - 2 + 1 = s.regs.pc - 1 := by bv_omega
  simp only [State.rewindLatch, State.rewind, State.tick_regs, State.setPc_regs, State.setMemptr_regs, e]

theorem State.rewindLatch_frame (s : State) : Frame s s.rewindLatch [] [.tick 5] :=
  (Frame.of_regs _ rfl).trans ((Frame.of_regs _ rfl).trans (State.tick_frame _ 5))

theorem State.rewind_regs (s : State) : s.rewind.regs = { s.regs with pc := s.regs.pc - 2 } := by
  simp only [State.rewind, State.tick_regs, State.setPc_regs]

theorem State.rewind_frame (s : State) : Frame s s.rewind [] [.tick 5] :=
  (Frame.of_regs _ rfl).trans (State.tick_frame _ 5)

/-- LDIR and LDDR rewind where BC is not 0 after (R267, R268). -/
theorem State.blockLoadRepeat_eq (s : State) (d : Direction) : s.blockLoadRepeat d =
    if s.regs.bc != 1 then (s.blockLoad d).rewindLatch else s.blockLoad d := by
  simp only [State.blockLoadRepeat, State.blockLoad_regs, sub_one_bne_zero]

/-- CPIR and CPDR rewind where BC is not 0 after and there is no match (R271, R272). -/
theorem State.blockCompareRepeat_eq (s : State) (d : Direction) : s.blockCompareRepeat d =
    if s.regs.bc != 1 && s.regs.view .a != s.byteAt s.regs.hl then (s.blockCompare d).rewindLatch
    else s.blockCompare d := by
  have h : (s.blockCompare d).regF =
      searchFlags (s.regs.view .a) (s.byteAt s.regs.hl) s.regs.f (s.regs.bc != 1) := by
    rw [State.regF_eq, State.blockCompare_regs]; exact lo_word _ _
  simp only [State.blockCompareRepeat, h, searchFlags_again]

/-! ## Block input and output -/

/-- The registers after INI or IND (R436, R437). -/
theorem State.blockIn_regs (s : State) (d : Direction) : (s.blockIn d).regs =
    { s.regs.withAF (s.regs.view .a)
        (portFlags (s.portByte s.regs.bc) (d.moveByte (s.regs.view .c)) (s.regs.view .b - 1)) with
      bc := (s.regs.view .b - 1) ++ s.regs.view .c, hl := d.move s.regs.hl, memptr := d.move s.regs.bc } := by
  simp only [State.blockIn, State.tick_regs, blockIoFlags_eq]
  rfl

/-- The store and the events of INI or IND (R436, R437). -/
theorem State.blockIn_frame {s : State} (h : s.Inv) (d : Direction) :
    Frame s.answered (s.blockIn d) [(s.regs.hl, s.portByte s.regs.bc)]
      (s.inp s.regs.bc ++ wr s.regs.hl (s.portByte s.regs.bc) ++ [.tick 1]) :=
  ((s.portIn_frame _).trans (State.busWrite_frame (s := s.portIn s.regs.bc) h _ _)).trans
    ((Frame.of_regs _ rfl).trans (State.tick_frame _ 1))

/-- The registers after OUTI or OUTD (R440, R441). -/
theorem State.blockOut_regs (s : State) (d : Direction) : (s.blockOut d).regs =
    { s.regs.withAF (s.regs.view .a)
        (portFlags (s.byteAt s.regs.hl) ((d.move s.regs.hl).extractLsb' 0 8) (s.regs.view .b - 1)) with
      bc := (s.regs.view .b - 1) ++ s.regs.view .c, hl := d.move s.regs.hl
      memptr := d.move ((s.regs.view .b - 1) ++ s.regs.view .c) } := by
  simp only [State.blockOut, State.tick_regs, blockIoFlags_eq]
  rfl

/-- The events of OUTI or OUTD (R440, R441). -/
theorem State.blockOut_frame (s : State) (d : Direction) : Frame s (s.blockOut d) []
    (s.rd s.regs.hl ++ outp ((s.regs.view .b - 1) ++ s.regs.view .c) (s.byteAt s.regs.hl) ++ [.tick 1]) :=
  ((s.busRead_frame _).trans ((s.busRead s.regs.hl).portOut_frame _ _)).trans
    ((Frame.of_regs _ rfl).trans (State.tick_frame _ 1))

end Sys2Proof.Machine
end

