-- ==== Sys2Proof/Laws/Effects.lean ====
section
/-!
SUPPORT. What the shared shapes of the arithmetic, the rotates, the calls and returns and interrupt delivery leave.
-/

namespace Sys2Proof.Machine

/-! ## Accumulator and memory shapes -/

/-- NEG (R322). -/
theorem State.negate_eq (s : State) : s.negate =
    s.setAF (-(s.regs.view .a), subFlags 0 (s.regs.view .a) false (-(s.regs.view .a))) := by
  rw [State.negate, sub8_eq, diffOf_false, State.regA_eq, show ∀ v : Byte, 0 - v = -v from fun v => zero_sub v]

/-- The byte LD A,R reads (R43, R335). -/
theorem State.refresh_eq (s : State) : s.refresh = BitVec.ofNat 8 (128 * s.regs.r7.toNat + s.regs.r.toNat) := by
  unfold State.refresh
  generalize s.regs.r7 = x
  generalize s.regs.r = y
  revert x y; decide +kernel

theorem State.rmwFlags_frame {s : State} (h : s.Inv) (a : Word) (p : Byte × Byte) :
    Frame s (s.rmwFlags a p) [(a, p.1)] (s.rd a ++ wr a p.1) :=
  ((s.busRead_frame a).trans (State.setF_frame _ _)).trans
    (State.busWrite_frame (s := (s.busRead a).setF p.2) h a p.1)

theorem State.rotMem_frame {s : State} (h : s.Inv) (op : Byte → Bool → Byte × Byte) (a : Word) :
    Frame s (s.rotMem op a) [(a, (op (s.byteAt a) s.carry).1)] (s.rd a ++ wr a (op (s.byteAt a) s.carry).1) :=
  s.rmwFlags_frame h a (op (s.byteAt a) s.carry)

theorem State.rmw_frame {s : State} (h : s.Inv) (a : Word) (v : Byte) :
    Frame s (s.rmw a v) [(a, v)] (s.rd a ++ wr a v) :=
  (s.busRead_frame a).trans (State.busWrite_frame (s := s.busRead a) h a v)

theorem State.arithHl_frame (s : State) (p : Word × Byte) : Frame s (s.arithHl p) [] [.tick 7] :=
  ((State.setMemptr_frame _ _).trans (State.setPair_frame _ _ _)).trans
    ((State.setF_frame _ _).trans (State.tick_frame _ 7))

/-! ## Calls and returns -/

theorem State.callTo_regs (s : State) (a : Word) :
    (s.callTo a).regs = { s.regs with sp := s.regs.sp - 2, pc := a, memptr := a } := by
  simp only [State.callTo, State.tick_regs, State.setMemptr_regs, State.setPc_regs, State.push16_regs]

/-- A call pushes the return address, high byte first (R92, R408). -/
theorem State.callTo_frame {s : State} (h : s.Inv) (a : Word) : Frame s (s.callTo a)
    [(s.regs.sp - 2, lo s.regs.pc), (s.regs.sp - 1, hi s.regs.pc)]
    (wr (s.regs.sp - 1) (hi s.regs.pc) ++ wr (s.regs.sp - 2) (lo s.regs.pc) ++ [.tick 1]) :=
  (State.push16_frame h s.regs.pc).trans
    ((State.setPc_frame _ _).trans ((State.setMemptr_frame _ _).trans (State.tick_frame _ 1)))

theorem State.returnPop_regs (s : State) : s.returnPop.regs =
    { s.regs with sp := s.regs.sp + 2, pc := s.stackTop, memptr := s.stackTop } := by
  simp only [State.returnPop, State.setMemptr_regs, State.setPc_regs, State.pop16_regs]

theorem State.returnPop_frame (s : State) :
    Frame s s.returnPop [] (s.rd s.regs.sp ++ s.rd (s.regs.sp + 1)) :=
  s.pop16_frame.trans ((State.setPc_frame _ _).trans (State.setMemptr_frame _ _))

theorem State.returnFromInterrupt_regs (s : State) : s.returnFromInterrupt.regs =
    { s.regs with sp := s.regs.sp + 2, pc := s.stackTop, memptr := s.stackTop, iff1 := s.regs.iff2 } := by
  simp only [State.returnFromInterrupt, State.returnPop_regs]
  rfl

theorem State.returnFromInterrupt_frame (s : State) :
    Frame s s.returnFromInterrupt [] (s.rd s.regs.sp ++ s.rd (s.regs.sp + 1)) :=
  (State.setIff_frame _ _ _).trans (State.returnPop_frame _)

/-! ## Interrupt delivery -/

/-- The state in which a delivery pushes PC: HALT left, acknowledged, the flip-flops cleared (R463, R464, R466). -/
def State.accepted (s : State) (k : Interrupt) : State := (s.leaveHalt.acknowledge).maskIff k

theorem State.accepted_regs (s : State) (k : Interrupt) : (s.accepted k).regs =
    { s.regs with
      pc := if s.regs.halted then s.regs.pc + 1 else s.regs.pc, halted := false, r := s.regs.r + 1, iff1 := false
      iff2 := decide (k = .nonMaskable) && s.regs.iff2 } := by
  unfold State.accepted State.leaveHalt
  cases h : s.regs.halted <;> cases k <;>
    simp only [State.maskIff, State.setIff, State.acknowledge, State.tick, State.log, State.bumpR, h, if_true,
      Bool.false_eq_true, if_false, OfNat.ofNat_ne_zero] <;> rfl

theorem State.accepted_frame (s : State) (k : Interrupt) : Frame s (s.accepted k) [] [.tick 7] := by
  have h1 : Frame s s.leaveHalt [] [] := by
    unfold State.leaveHalt; split
    · exact Frame.of_regs _ rfl
    · exact Frame.refl s
  have h2 : ∀ t : State, Frame t (t.maskIff k) [] [] := fun t => by cases k <;> exact State.setIff_frame _ _ _
  exact h1.trans (((State.tick_frame _ 7).trans (Frame.of_regs _ rfl)).trans (h2 _))

theorem State.accepted_inv {s : State} (h : s.Inv) (k : Interrupt) : (s.accepted k).Inv := by
  unfold State.accepted State.leaveHalt
  cases k <;> split <;> exact h

/-- The address a delivery saves: the next instruction's, or the byte after HALT (R463, R467). -/
def State.returnAddress (s : State) : Word := if s.regs.halted then s.regs.pc + 1 else s.regs.pc

/-- The state after the pushes of a delivery (R467). -/
def State.saved (s : State) (k : Interrupt) : State := (s.accepted k).push16 (s.accepted k).regs.pc

theorem State.saved_regs (s : State) (k : Interrupt) : (s.saved k).regs =
    { s.regs with
      pc := s.returnAddress, halted := false, r := s.regs.r + 1, iff1 := false
      iff2 := decide (k = .nonMaskable) && s.regs.iff2, sp := s.regs.sp - 2 } := by
  rw [State.saved, State.push16_regs, State.accepted_regs]; rfl

theorem State.saved_frame {s : State} (h : s.Inv) (k : Interrupt) : Frame s (s.saved k)
    [(s.regs.sp - 1, hi s.returnAddress), (s.regs.sp - 2, lo s.returnAddress)]
    ([.tick 7] ++ wr (s.regs.sp - 1) (hi s.returnAddress) ++ wr (s.regs.sp - 2) (lo s.returnAddress)) := by
  have hpc : (s.accepted k).regs.pc = s.returnAddress := by rw [State.accepted_regs]; rfl
  have hsp : (s.accepted k).regs.sp = s.regs.sp := by rw [State.accepted_regs]
  have f := (State.accepted_frame s k).trans (State.push16_frame (State.accepted_inv h k) s.returnAddress)
  rw [hsp] at f
  rw [State.saved, hpc]
  obtain ⟨hb, hr⟩ := f
  refine ⟨fun a => ?_, hr⟩
  rw [hb]; exact State.afterStores_swap _ _ _ _ _ (by bv_omega) _

theorem State.saved_inv {s : State} (h : s.Inv) (k : Interrupt) : (s.saved k).Inv :=
  State.push16_inv (State.accepted_inv h k) _

theorem State.deliver_eq (s : State) (k : Interrupt) :
    s.deliver k = { (s.saved k).enterHandler k with eiLast := false } := rfl

theorem State.afterStores_eiLast (s : State) (b : Bool) (st : List (Word × Byte)) (a : Word) :
    ({ s with eiLast := b } : State).afterStores st a = s.afterStores st a := by
  induction st with
  | nil => rfl
  | cons p st ih => obtain ⟨c, v⟩ := p; simp only [State.afterStores, ih]; rfl

/-- Clearing `eiLast` on both sides of a frame. -/
theorem Frame.clear_eiLast {s t : State} {st : List (Word × Byte)} {ev : List Event} (h : Frame s t st ev) :
    Frame { s with eiLast := false } { t with eiLast := false } st ev := by
  obtain ⟨hb, ht, -, hp, hs, hq, hd⟩ := h
  exact ⟨fun a => (hb a).trans (State.afterStores_eiLast s false st a).symm, ht, rfl, hp, hs, hq, hd⟩

/-- The target of a delivery that reads no vector: a non-maskable one, or modes 0 and 1 (R468). -/
theorem State.enterHandler_fixed (s : State) (k : Interrupt) (h : k = .nonMaskable ∨ s.regs.im ≠ .im2) :
    s.enterHandler k = (s.setPc (if k = .nonMaskable then 0x0066 else 0x0038)).setMemptr
      (if k = .nonMaskable then 0x0066 else 0x0038) := by
  unfold State.enterHandler
  rcases h with rfl | h
  · rfl
  · cases k <;> cases hi : s.regs.im <;> first | rfl | exact absurd hi h

theorem State.enterHandler_vectored (s : State) (h : s.regs.im = .im2) :
    s.enterHandler .maskable = (s.readVector.setPc s.vector).setMemptr s.vector := by
  unfold State.enterHandler; rw [h]

/-- A delivery that reads no vector (R463 to R469). -/
theorem State.deliver_fixed_regs (s : State) (k : Interrupt) (h : k = .nonMaskable ∨ s.regs.im ≠ .im2) :
    (s.deliver k).regs = { s.regs with
      pc := if k = .nonMaskable then 0x0066 else 0x0038, memptr := if k = .nonMaskable then 0x0066 else 0x0038
      halted := false, r := s.regs.r + 1, iff1 := false, iff2 := decide (k = .nonMaskable) && s.regs.iff2
      sp := s.regs.sp - 2 } := by
  have hg := s.saved_regs k
  rw [State.deliver_eq]
  have h' : k = .nonMaskable ∨ (s.saved k).regs.im ≠ .im2 := by rw [hg]; exact h
  generalize s.saved k = t at hg h'
  rw [State.enterHandler_fixed t k h']
  simp only [State.setMemptr_regs, State.setPc_regs, hg]

theorem State.deliver_fixed_frame {s : State} (hs : s.Inv) (k : Interrupt)
    (h : k = .nonMaskable ∨ s.regs.im ≠ .im2) : Frame { s with eiLast := false } (s.deliver k)
    [(s.regs.sp - 1, hi s.returnAddress), (s.regs.sp - 2, lo s.returnAddress)]
    ([.tick 7] ++ wr (s.regs.sp - 1) (hi s.returnAddress) ++ wr (s.regs.sp - 2) (lo s.returnAddress)) := by
  have hg := s.saved_regs k
  have hf := State.saved_frame hs k
  rw [State.deliver_eq]
  have h' : k = .nonMaskable ∨ (s.saved k).regs.im ≠ .im2 := by rw [hg]; exact h
  generalize s.saved k = t at hg h' hf
  rw [State.enterHandler_fixed t k h']
  exact (hf.trans ((State.setPc_frame _ _).trans (State.setMemptr_frame _ _))).clear_eiLast

/-- A mode-2 delivery: the target is read after the pushes, at I over 0xFF and the next address (R468). -/
theorem State.deliver_vectored_regs {s : State} (hs : s.Inv) (h : s.regs.im = .im2) :
    (s.deliver .maskable).regs =
      (let st := [(s.regs.sp - 1, hi s.returnAddress), (s.regs.sp - 2, lo s.returnAddress)]
       let p : Word := s.regs.i ++ 0xFF#8
       let a : Word := s.afterStores st (p + 1) ++ s.afterStores st p
       { s.regs with
          pc := a, memptr := a, halted := false, r := s.regs.r + 1, iff1 := false, iff2 := false
          sp := s.regs.sp - 2 }) := by
  have hg := s.saved_regs .maskable
  have hb := (State.saved_frame hs .maskable).1
  rw [State.deliver_eq]
  generalize s.saved .maskable = t at hg hb
  rw [State.enterHandler_vectored t (by rw [hg]; exact h)]
  have hv : t.vectorAddress = s.regs.i ++ 0xFF#8 := by unfold State.vectorAddress; rw [hg]; rfl
  simp only [State.setMemptr_regs, State.setPc_regs, State.readVector, State.busRead_regs, State.vector, hv, hb, hg]
  rfl

theorem State.deliver_vectored_frame {s : State} (hs : s.Inv) (h : s.regs.im = .im2) :
    Frame { s with eiLast := false } (s.deliver .maskable)
      [(s.regs.sp - 1, hi s.returnAddress), (s.regs.sp - 2, lo s.returnAddress)]
      (let st := [(s.regs.sp - 1, hi s.returnAddress), (s.regs.sp - 2, lo s.returnAddress)]
       let p : Word := s.regs.i ++ 0xFF#8
       [.tick 7] ++ wr (s.regs.sp - 1) (hi s.returnAddress) ++ wr (s.regs.sp - 2) (lo s.returnAddress)
        ++ [.tick 3, .memRead p (s.afterStores st p), .tick 3, .memRead (p + 1) (s.afterStores st (p + 1))]) := by
  have hg := s.saved_regs .maskable
  have hf := State.saved_frame hs .maskable
  have hb := hf.1
  rw [State.deliver_eq]
  generalize s.saved .maskable = t at hg hf hb
  rw [State.enterHandler_vectored t (by rw [hg]; exact h)]
  have hv : t.vectorAddress = s.regs.i ++ 0xFF#8 := by unfold State.vectorAddress; rw [hg]; rfl
  have hr : Frame t t.readVector [] (t.rd t.vectorAddress ++ t.rd (t.vectorAddress + 1)) :=
    (State.busRead_frame _ _).trans (State.busRead_frame _ _)
  have hr2 := (hf.trans (hr.trans ((State.setPc_frame _ t.vector).trans (State.setMemptr_frame _ t.vector)))).clear_eiLast
  rw [State.rd, State.rd, hv, hb, hb] at hr2
  exact hr2

end Sys2Proof.Machine
end

