-- ==== Sys2Proof/Laws/Step.lean ====
section
/-!
SUPPORT. What fetching does, that the router runs `exec`, and what every operation keeps: the invariant, the old
trace, the parameters and the schedule.
-/

namespace Sys2Proof.Machine

/-! ## Fetching -/

/-- The bytes a state holds decide the events of its fetches. -/
theorem State.fetchEvents_congr {s t : State} (h : ∀ a, t.byteAt a = s.byteAt a) (a : Word) (ks : List FetchKind) :
    t.fetchEvents a ks = s.fetchEvents a ks := by
  induction ks generalizing a with
  | nil => rfl
  | cons k ks ih => cases k <;> simp only [State.fetchEvents, h, ih]

/-- The units of fetches: 4 for an opcode byte, 3 for an operand byte (R84). -/
theorem State.fetchEvents_units (s : State) (a : Word) (ks : List FetchKind) :
    unitsOf (s.fetchEvents a ks) = (ks.map fun k => if k = .op then 4 else 3).sum := by
  induction ks generalizing a with
  | nil => rfl
  | cons k ks ih =>
    cases k
    · simp only [State.fetchEvents, List.cons_append, List.nil_append, unitsOf, Event.units, ih, List.map_cons,
        List.sum_cons, if_true]
      omega
    · simp only [State.fetchEvents, List.cons_append, List.nil_append, unitsOf, Event.units, ih, List.map_cons,
        List.sum_cons, show ¬ FetchKind.operand = FetchKind.op by decide, if_false]
      omega

/-- What fetches leave (R36, R121 to R124): the events, PC past the bytes and R up by the opcode fetches. -/
theorem State.fetchBytes_leaves (ks : List FetchKind) (s : State) :
    Frame s (s.fetchBytes ks) [] (s.fetchEvents s.regs.pc ks)
    ∧ (s.fetchBytes ks).regs = { s.regs with
        pc := s.regs.pc + BitVec.ofNat 16 ks.length, r := s.regs.r + BitVec.ofNat 7 (ks.count .op) } := by
  induction ks generalizing s with
  | nil => exact ⟨Frame.refl s, by simp [State.fetchBytes]⟩
  | cons k ks ih =>
    obtain ⟨hf, hr⟩ := ih (s.fetchByte k)
    have e16 : ∀ p : Word, p + 1 + BitVec.ofNat 16 ks.length = p + BitVec.ofNat 16 (ks.length + 1) := by
      intro p; rw [BitVec.ofNat_add, add_assoc, add_comm (1 : Word)]; rfl
    cases k with
    | op =>
      have h0 : Frame s (s.fetchByte .op) [] [.tick 4, .memRead s.regs.pc (s.byteAt s.regs.pc)] :=
        ⟨fun _ => rfl, rfl, rfl, rfl, rfl, rfl, rfl⟩
      rw [State.fetchEvents_congr (s := s) (t := s.fetchByte .op) (fun _ => rfl)] at hf
      refine ⟨h0.trans hf, ?_⟩
      have e7 : s.regs.r + 1 + BitVec.ofNat 7 (ks.count .op) = s.regs.r + BitVec.ofNat 7 (ks.count .op + 1) := by
        rw [BitVec.ofNat_add, add_assoc, add_comm (1 : BitVec 7)]; rfl
      rw [State.fetchBytes, hr]
      simp only [State.fetchByte, State.bumpR_regs, State.bumpPc_regs, State.log_regs, State.tick_regs, e16,
        List.length_cons, List.count_cons_self, e7]
    | operand =>
      have h0 : Frame s (s.fetchByte .operand) [] [.tick 3, .memRead s.regs.pc (s.byteAt s.regs.pc)] :=
        ⟨fun _ => rfl, rfl, rfl, rfl, rfl, rfl, rfl⟩
      rw [State.fetchEvents_congr (s := s) (t := s.fetchByte .operand) (fun _ => rfl)] at hf
      refine ⟨h0.trans hf, ?_⟩
      rw [State.fetchBytes, hr]
      have hc : (FetchKind.operand :: ks).count .op = ks.count .op := by
        simp only [List.count_cons, show (FetchKind.operand == FetchKind.op) = false from rfl, Bool.false_eq_true,
          if_false, Nat.add_zero]
      simp only [State.fetchByte, State.bumpPc_regs, State.log_regs, State.tick_regs, e16, List.length_cons, hc]

/-! ## The router -/

section
variable (again : List Byte → State → Result) (s : State)
theorem runWith_prefixCB : runWith again .prefixCB s = again [0xCB] s := rfl
theorem runWith_prefixED : runWith again .prefixED s = again [0xED] s := rfl
theorem runWith_prefixDD : runWith again .prefixDD s = again [0xDD] s := rfl
theorem runWith_prefixFD : runWith again .prefixFD s = again [0xFD] s := rfl
theorem runWith_prefixXYCB (x : Index) : runWith again (.prefixXYCB x) s = again [x.leadIn, 0xCB] s := rfl
theorem runWith_unassignedXY (x : Index) (b : Byte) :
    runWith again (.unassignedXY x b) s = unassignedIndexed again x b s := rfl
end

/-- An instruction that neither routes nor is a DD or FD entry left unassigned does not look at what follows. -/
theorem runWith_any (again again' : List Byte → State → Result) (i : Instr) (s : State) (h : i.isRouter = false)
    (h' : ∀ x b, i ≠ .unassignedXY x b) : runWith again i s = runWith again' i s := by
  cases i
  case unassignedXY x b => exact absurd rfl (h' x b)
  all_goals first | rfl | exact Bool.noConfusion h

/-- Running an instruction with the router behind it is `exec`. -/
theorem runWith_exec (i : Instr) (s : State) : runWith (route chainFuel) i s = exec i s := by
  cases i
  case prefixCB => rw [runWith_prefixCB, ← execPrefixCB.eq_1]; rfl
  case prefixED => rw [runWith_prefixED, ← execPrefixED.eq_1]; rfl
  case prefixDD => rw [runWith_prefixDD, ← execPrefixDD.eq_1]; rfl
  case prefixFD => rw [runWith_prefixFD, ← execPrefixFD.eq_1]; rfl
  case prefixXYCB x => rw [runWith_prefixXYCB, ← execPrefixXYCB.eq_1]; rfl
  case unassignedXY x b => rw [runWith_unassignedXY, ← execUnassignedXY.eq_1]; rfl
  all_goals rfl

/-! ## What every operation keeps -/

/-- What every operation keeps: the invariant, the old trace, the parameters and the schedule. -/
structure Evolves (s t : State) : Prop where
  inv : s.Inv → t.Inv
  trace : ∃ new, t.trace = new ++ s.trace
  params : t.params = s.params
  schedule : t.schedule = s.schedule

theorem Evolves.refl (s : State) : Evolves s s := ⟨id, ⟨[], rfl⟩, rfl, rfl⟩

theorem Evolves.trans {s t u : State} (h : Evolves s t) (h' : Evolves t u) : Evolves s u := by
  obtain ⟨a, ha⟩ := h.trace
  obtain ⟨b, hb⟩ := h'.trace
  exact ⟨fun x => h'.inv (h.inv x), ⟨b ++ a, by rw [hb, ha, List.append_assoc]⟩, h'.params.trans h.params,
    h'.schedule.trans h.schedule⟩

/-- Any change of registers, of `eiLast`, of the port answers and of the draws. -/
theorem Evolves.of_eq {s t u : State} (h : Evolves s t) (hm : u.mem = t.mem) (ht : u.trace = t.trace)
    (hp : u.params = t.params) (hs : u.schedule = t.schedule) : Evolves s u :=
  h.trans ⟨fun x => by unfold State.Inv at *; rw [hm]; exact x, ⟨[], ht⟩, hp, hs⟩

section
variable {s t : State} (h : Evolves s t)
include h

theorem Evolves.log (e : Event) : Evolves s (t.log e) := h.trans ⟨id, ⟨[e], rfl⟩, rfl, rfl⟩
theorem Evolves.tick (n : Nat) : Evolves s (t.tick n) := by
  unfold State.tick; split
  · exact h
  · exact h.log _
theorem Evolves.busRead (a : Word) : Evolves s (t.busRead a) := (h.tick 3).log _
theorem Evolves.busWrite (a : Word) (v : Byte) : Evolves s (t.busWrite a v) :=
  h.trans ⟨fun x => State.busWrite_inv x a v, ⟨[.memWrite a v, .tick 3], State.busWrite_trace t a v⟩, rfl, rfl⟩
theorem Evolves.portIn (p : Word) : Evolves s (t.portIn p) := h.trans ⟨id, ⟨[.tick 3, .portRead p (t.portByte p), .tick 1], State.portIn_trace t p⟩, rfl, rfl⟩
theorem Evolves.portOut (p : Word) (v : Byte) : Evolves s (t.portOut p v) :=
  h.trans ⟨id, ⟨[.tick 3, .portWrite p v, .tick 1], State.portOut_trace t p v⟩, rfl, rfl⟩
theorem Evolves.setReg8 (r : Reg8) (v : Byte) : Evolves s (t.setReg8 r v) := by
  cases r <;> exact h.of_eq rfl rfl rfl rfl
theorem Evolves.setPair (p : Pair) (v : Word) : Evolves s (t.setPair p v) := by
  cases p <;> exact h.of_eq rfl rfl rfl rfl
theorem Evolves.setStackPair (p : StackPair) (v : Word) : Evolves s (t.setStackPair p v) := by
  cases p <;> exact h.of_eq rfl rfl rfl rfl
theorem Evolves.setIndex (x : Index) (v : Word) : Evolves s (t.setIndex x v) := by
  cases x <;> exact h.of_eq rfl rfl rfl rfl
theorem Evolves.setIndexHigh (x : Index) (v : Byte) : Evolves s (t.setIndexHigh x v) := h.setIndex x _
theorem Evolves.setIndexLow (x : Index) (v : Byte) : Evolves s (t.setIndexLow x v) := h.setIndex x _
theorem Evolves.setPc (v : Word) : Evolves s (t.setPc v) := h.of_eq rfl rfl rfl rfl
theorem Evolves.setSp (v : Word) : Evolves s (t.setSp v) := h.of_eq rfl rfl rfl rfl
theorem Evolves.setMemptr (v : Word) : Evolves s (t.setMemptr v) := h.of_eq rfl rfl rfl rfl
theorem Evolves.setIff (p q : Bool) : Evolves s (t.setIff p q) := h.of_eq rfl rfl rfl rfl
theorem Evolves.bumpR : Evolves s t.bumpR := h.of_eq rfl rfl rfl rfl
theorem Evolves.setA (v : Byte) : Evolves s (t.setA v) := h.of_eq rfl rfl rfl rfl
theorem Evolves.setF (v : Byte) : Evolves s (t.setF v) := h.of_eq rfl rfl rfl rfl
theorem Evolves.setAF (p : Byte × Byte) : Evolves s (t.setAF p) := h.of_eq rfl rfl rfl rfl
theorem Evolves.latchEa (x : Index) (d : Byte) : Evolves s (t.latchEa x d) := h.setMemptr _
theorem Evolves.jumpTo (a : Word) : Evolves s (t.jumpTo a) := (h.setPc _).setMemptr _
theorem Evolves.busRead16 (a : Word) : Evolves s (t.busRead16 a) := (h.busRead _).busRead _
theorem Evolves.busWrite16 (a w : Word) : Evolves s (t.busWrite16 a w) := (h.busWrite _ _).busWrite _ _
theorem Evolves.push16 (w : Word) : Evolves s (t.push16 w) := (((h.setSp _).busWrite _ _).setSp _).busWrite _ _
theorem Evolves.pop16 : Evolves s t.pop16 := (((h.busRead _).setSp _).busRead _).setSp _
theorem Evolves.callTo (a : Word) : Evolves s (t.callTo a) := (((h.push16 _).setPc _).setMemptr _).tick 1
theorem Evolves.returnPop : Evolves s t.returnPop := (h.pop16.setPc _).setMemptr _
theorem Evolves.returnFromInterrupt : Evolves s t.returnFromInterrupt := (h.setIff _ _).returnPop
theorem Evolves.loadReg8 (r : Reg8) (a : Word) : Evolves s (t.loadReg8 r a) := (h.busRead _).setReg8 _ _
theorem Evolves.storeIndexed (x : Index) (d v : Byte) (n : Nat) : Evolves s (t.storeIndexed x d v n) :=
  ((h.latchEa _ _).busWrite _ _).tick _
theorem Evolves.rmwFlags (a : Word) (p : Byte × Byte) : Evolves s (t.rmwFlags a p) :=
  ((h.busRead _).setF _).busWrite _ _
theorem Evolves.rotMem (op : Byte → Bool → Byte × Byte) (a : Word) : Evolves s (t.rotMem op a) :=
  ((h.busRead _).setF _).busWrite _ _
theorem Evolves.rotIndexed (op : Byte → Bool → Byte × Byte) (x : Index) (d : Byte) :
    Evolves s (t.rotIndexed op x d) := ((h.latchEa _ _).rotMem _ _).tick 3
theorem Evolves.rmwIndexed (x : Index) (d v : Byte) : Evolves s (t.rmwIndexed x d v) :=
  (((h.latchEa _ _).busRead _).busWrite _ _).tick 3
theorem Evolves.rewind : Evolves s t.rewind := (h.setPc _).tick 5
theorem Evolves.rewindLatch : Evolves s t.rewindLatch := (h.setMemptr _).rewind
theorem Evolves.setRegs (g : RegFile) : Evolves s { t with regs := g } := h.of_eq rfl rfl rfl rfl
theorem Evolves.blockLoad (d : Direction) : Evolves s (t.blockLoad d) :=
  (((h.busRead _).busWrite _ _).setRegs _).tick 2
theorem Evolves.blockCompare (d : Direction) : Evolves s (t.blockCompare d) :=
  ((h.busRead _).setRegs _).tick 5
theorem Evolves.blockIn (d : Direction) : Evolves s (t.blockIn d) :=
  (((h.portIn _).busWrite _ _).setRegs _).tick 1
theorem Evolves.blockOut (d : Direction) : Evolves s (t.blockOut d) :=
  (((h.busRead _).portOut _ _).setRegs _).tick 1
theorem Evolves.ite {c : Prop} [Decidable c] {u : State} (h' : Evolves s u) : Evolves s (if c then t else u) := by
  split <;> assumption
theorem Evolves.loadAAt (a : Word) : Evolves s (t.loadAAt a) := ((h.busRead _).setA _).setMemptr _
theorem Evolves.storeAAt (a : Word) : Evolves s (t.storeAAt a) := (h.busWrite _ _).setMemptr _
theorem Evolves.loadIndexed (r : Reg8) (x : Index) (d : Byte) : Evolves s (t.loadIndexed r x d) :=
  ((h.latchEa _ _).loadReg8 _ _).tick 5
theorem Evolves.loadAt16 (a : Word) : Evolves s (t.loadAt16 a) := (h.busRead16 _).setMemptr _
theorem Evolves.storeAt16 (a w : Word) : Evolves s (t.storeAt16 a w) := (h.busWrite16 _ _).setMemptr _
theorem Evolves.swapStack (w : Word) : Evolves s (t.swapStack w) := ((h.busRead16 _).busWrite _ _).busWrite _ _
theorem Evolves.negate : Evolves s t.negate := h.setAF _
theorem Evolves.setIm (m : IntMode) : Evolves s (t.setIm m) := h.setRegs _
theorem Evolves.loadAIR (v : Byte) : Evolves s (t.loadAIR v) := h.setAF _
theorem Evolves.arithHl (p : Word × Byte) : Evolves s (t.arithHl p) :=
  (((h.setMemptr _).setPair _ _).setF _).tick 7
theorem Evolves.arithIndex (x : Index) (p : Word × Byte) : Evolves s (t.arithIndex x p) :=
  (((h.setMemptr _).setIndex _ _).setF _).tick 7
theorem Evolves.inputC : Evolves s t.inputC := (h.portIn _).setMemptr _
theorem Evolves.outputC (v : Byte) : Evolves s (t.outputC v) := (h.portOut _ _).setMemptr _
theorem Evolves.repeatIo : Evolves s t.repeatIo := by
  unfold State.repeatIo; split
  · exact h.rewind
  · exact h
theorem Evolves.blockLoadRepeat (d : Direction) : Evolves s (t.blockLoadRepeat d) := by
  rw [State.blockLoadRepeat_eq]; exact (h.blockLoad d).rewindLatch.ite (h.blockLoad d)
theorem Evolves.blockCompareRepeat (d : Direction) : Evolves s (t.blockCompareRepeat d) := by
  rw [State.blockCompareRepeat_eq]; exact (h.blockCompare d).rewindLatch.ite (h.blockCompare d)
theorem Evolves.rotateA (r : Byte) (c : Bool) : Evolves s (t.rotateA r c) := h.setAF _
theorem Evolves.rotReg (op : Byte → Bool → Byte × Byte) (r : Reg8) : Evolves s (t.rotReg op r) :=
  (h.setF _).setReg8 _ _
theorem Evolves.rotIndHl (op : Byte → Bool → Byte × Byte) : Evolves s (t.rotIndHl op) := (h.rotMem _ _).tick 1
theorem Evolves.rotIndexedCopy (op : Byte → Bool → Byte × Byte) (x : Index) (d : Byte) (r : Reg8) :
    Evolves s (t.rotIndexedCopy op x d r) := (h.rotIndexed _ _ _).setReg8 _ _
theorem Evolves.rmw (a : Word) (v : Byte) : Evolves s (t.rmw a v) := (h.busRead _).busWrite _ _
theorem Evolves.bitIndexed (b : BitVec 3) (x : Index) (d : Byte) : Evolves s (t.bitIndexed b x d) :=
  (((h.latchEa _ _).busRead _).setF _).tick 3
theorem Evolves.bitMem (b : BitVec 3) (v : Byte) : Evolves s (t.bitMem b v) := (h.busRead _).setF _
theorem Evolves.nibbles (m a : Byte) : Evolves s (t.nibbles m a) :=
  ((((h.busRead _).busWrite _ _).setAF _).setMemptr _).tick 4
theorem Evolves.aluAdd (v : Byte) : Evolves s (t.aluAdd v) := h.setAF _
theorem Evolves.aluAdc (v : Byte) : Evolves s (t.aluAdc v) := h.setAF _
theorem Evolves.aluSub (v : Byte) : Evolves s (t.aluSub v) := h.setAF _
theorem Evolves.aluSbc (v : Byte) : Evolves s (t.aluSbc v) := h.setAF _
theorem Evolves.aluAnd (v : Byte) : Evolves s (t.aluAnd v) := h.setAF _
theorem Evolves.aluXor (v : Byte) : Evolves s (t.aluXor v) := h.setAF _
theorem Evolves.aluOr (v : Byte) : Evolves s (t.aluOr v) := h.setAF _
theorem Evolves.aluCp (v : Byte) : Evolves s (t.aluCp v) := h.setF _
theorem Evolves.fetchBytes (ks : List FetchKind) : Evolves s (t.fetchBytes ks) := by
  induction ks generalizing t with
  | nil => exact h
  | cons k ks ih =>
    cases k
    · exact ih ((((h.tick 4).log _).setPc _).bumpR)
    · exact ih (((h.tick 3).log _).setPc _)
theorem Evolves.fetchAfter (pre : List Byte) (i : Instr) : Evolves s (t.fetchAfter pre i) := h.fetchBytes _
theorem Evolves.deliver (k : Interrupt) : Evolves s (t.deliver k) := by
  have h1 : Evolves s t.leaveHalt := by
    unfold State.leaveHalt; split
    · exact h.of_eq rfl rfl rfl rfl
    · exact h
  have h2 : Evolves s (t.saved k) := by
    cases k <;> exact (((h1.tick 7).bumpR).setIff _ _).push16 _
  rw [State.deliver_eq]
  generalize t.saved k = u at h2
  refine Evolves.of_eq (t := u.enterHandler k) ?_ rfl rfl rfl rfl
  unfold State.enterHandler
  split
  · exact (h2.setPc _).setMemptr _
  · exact (((h2.busRead _).busRead _).setPc _).setMemptr _
  · exact (h2.setPc _).setMemptr _
  · exact (h2.setPc _).setMemptr _
end

theorem unitsOf_append (a b : List Event) : unitsOf (a ++ b) = unitsOf a + unitsOf b := by
  induction a with
  | nil => simp [unitsOf]
  | cons e a ih => simp [unitsOf, ih, Nat.add_assoc]

/-- Where the answer is a next state, what that state keeps. -/
theorem Evolves.of_next {s x t : State} (h : Evolves s x) (e : (Host.Outcome.next x : Result) = .next t) : Evolves s t := by
  cases e; exact h

theorem State.ifAdmitted_next {s t : State} {o : Result} (e : s.ifAdmitted o = .next t) : o = .next t := by
  unfold State.ifAdmitted at e
  split at e
  · exact e
  · cases e

theorem Evolves.of_admitted {s x t : State} (h : Evolves s x) (e : s.ifAdmitted (Host.Outcome.next x : Result) = .next t) : Evolves s t :=
  Evolves.of_next h (State.ifAdmitted_next e)

theorem softNop_evolves {tb : Table} {b : Byte} {s t : State} (e : softNop tb b s = .next t) : Evolves s t := by
  unfold softNop at e
  split at e
  · cases e
  · exact Evolves.of_next ((Evolves.refl s).log _) e

/-- A next state of any instruction, where what follows a router row or a discarded lead-in does likewise. -/
theorem runWith_evolves (again : List Byte → State → Result)
    (hag : ∀ pre s t, again pre s = .next t → Evolves s t) (i : Instr) (s t : State)
    (h : runWith again i s = .next t) : Evolves s t := by
  cases i
  case prefixCB => exact hag _ _ _ h
  case prefixED => exact hag _ _ _ h
  case prefixDD => exact hag _ _ _ h
  case prefixFD => exact hag _ _ _ h
  case prefixXYCB => exact hag _ _ _ h
  case unassignedED => exact softNop_evolves h
  case unassignedXY x b =>
    rw [runWith_unassignedXY, unassignedIndexed] at h
    split at h
    · exact softNop_evolves h
    · exact hag _ _ _ h
  case bitIndHl b =>
    have h : execBitIndHl b s = .next t := h
    unfold execBitIndHl at h
    split at h
    · exact Evolves.of_next ((((Evolves.refl s).busRead _).setF _).tick _) h
    · refine Evolves.of_next ?_ h
      exact Evolves.of_eq (((Evolves.refl s).bitMem b (Config.bitDraw s.draws)).tick 1) rfl rfl rfl rfl
  case ei =>
    refine Evolves.of_next ?_ h
    exact Evolves.of_eq ((Evolves.refl s).setIff true true) rfl rfl rfl rfl
  all_goals first
    | refine Evolves.of_next ?_ h
    | refine Evolves.of_admitted ?_ h
  all_goals
    repeat' with_reducible first
      | exact Evolves.refl _
      | refine Evolves.ite ?_ ?_
      | apply Evolves.tick
      | apply Evolves.busRead
      | apply Evolves.busWrite
      | apply Evolves.portIn
      | apply Evolves.portOut
      | apply Evolves.setReg8
      | apply Evolves.setPair
      | apply Evolves.setStackPair
      | apply Evolves.setIndex
      | apply Evolves.setIndexHigh
      | apply Evolves.setIndexLow
      | apply Evolves.setPc
      | apply Evolves.setSp
      | apply Evolves.setMemptr
      | apply Evolves.setIff
      | apply Evolves.bumpR
      | apply Evolves.setA
      | apply Evolves.setF
      | apply Evolves.setAF
      | apply Evolves.latchEa
      | apply Evolves.jumpTo
      | apply Evolves.busRead16
      | apply Evolves.busWrite16
      | apply Evolves.push16
      | apply Evolves.pop16
      | apply Evolves.callTo
      | apply Evolves.returnPop
      | apply Evolves.returnFromInterrupt
      | apply Evolves.loadReg8
      | apply Evolves.storeIndexed
      | apply Evolves.rmwFlags
      | apply Evolves.rotMem
      | apply Evolves.rotIndexed
      | apply Evolves.rmwIndexed
      | apply Evolves.rewind
      | apply Evolves.rewindLatch
      | apply Evolves.blockLoad
      | apply Evolves.blockCompare
      | apply Evolves.blockIn
      | apply Evolves.blockOut
      | apply Evolves.loadAAt
      | apply Evolves.storeAAt
      | apply Evolves.loadIndexed
      | apply Evolves.loadAt16
      | apply Evolves.storeAt16
      | apply Evolves.swapStack
      | apply Evolves.negate
      | apply Evolves.setIm
      | apply Evolves.loadAIR
      | apply Evolves.arithHl
      | apply Evolves.arithIndex
      | apply Evolves.inputC
      | apply Evolves.outputC
      | apply Evolves.repeatIo
      | apply Evolves.blockLoadRepeat
      | apply Evolves.blockCompareRepeat
      | apply Evolves.rotateA
      | apply Evolves.rotReg
      | apply Evolves.rotIndHl
      | apply Evolves.rotIndexedCopy
      | apply Evolves.rmw
      | apply Evolves.bitIndexed
      | apply Evolves.bitMem
      | apply Evolves.nibbles
      | apply Evolves.aluAdd
      | apply Evolves.aluAdc
      | apply Evolves.aluSub
      | apply Evolves.aluSbc
      | apply Evolves.aluAnd
      | apply Evolves.aluXor
      | apply Evolves.aluOr
      | apply Evolves.aluCp
      | exact Evolves.setRegs (Evolves.refl _) _

theorem route_evolves (n : Nat) : ∀ pre s t, route n pre s = .next t → Evolves s t := by
  induction n with
  | zero => intro pre s t h; cases h
  | succ n ih => intro pre s t h; exact ((Evolves.refl s).fetchAfter _ _).trans (runWith_evolves _ ih _ _ _ h)

/-- What every instruction that completes keeps. -/
theorem exec_evolves {i : Instr} {s t : State} (h : exec i s = .next t) : Evolves s t := by
  rw [← runWith_exec] at h
  exact runWith_evolves _ (route_evolves _) _ _ _ h

end Sys2Proof.Machine
end

