-- ==== Sys2Proof/Laws/Decode.lean ====
section
/-!
SUPPORT. The codes of the operand fields, the length of an instruction, and that a whole window never decodes to a
router row.
-/

namespace Sys2Proof

/-! ## Codes -/

@[simp] theorem Reg8.ofCode_code (r : Reg8) : Reg8.ofCode r.code = some r := by cases r <;> rfl
@[simp] theorem Pair.ofCode_code (p : Pair) : Pair.ofCode p.code = p := by cases p <;> rfl
@[simp] theorem StackPair.ofCode_code (p : StackPair) : StackPair.ofCode p.code = p := by cases p <;> rfl
@[simp] theorem IndexPair.ofCode_code (p : IndexPair) : IndexPair.ofCode p.code = p := by cases p <;> rfl
@[simp] theorem IndexSrc.ofCode_code (r : IndexSrc) : IndexSrc.ofCode r.code = some r := by cases r <;> rfl
@[simp] theorem Cond.ofCode_code (cc : Cond) : Cond.ofCode cc.code = cc := by cases cc <;> rfl
@[simp] theorem JrCond.ofCode_code (cc : JrCond) : JrCond.ofCode cc.code = cc := by cases cc <;> rfl

/-! ## Lengths (R132, R134) -/

theorem Format.length_bounds (f : Format) : 1 ≤ f.fetches.length ∧ f.fetches.length ≤ 4 := by cases f <;> decide

theorem Instr.length_bounds (i : Instr) : 1 ≤ i.length ∧ i.length ≤ 4 := i.format.length_bounds

/-! ## A whole window is no router row -/

theorem decodeAluN_not_router (n : Byte) (k : BitVec 3) : (decodeAluN n k).isRouter = false := by
  unfold decodeAluN; split <;> rfl

theorem decodeBase0_not_router (b n1 n2 : Byte) : (decodeBase0 b n1 n2).isRouter = false := by
  unfold decodeBase0
  dsimp only
  repeat' first | rfl | split

theorem decodeBase1_not_router (b : Byte) : (decodeBase1 b).isRouter = false := by revert b; decide +kernel
theorem decodeBase2_not_router (b : Byte) : (decodeBase2 b).isRouter = false := by revert b; decide +kernel

/-- The router's entries of the last quarter of `BASE` are 0xCB, 0xDD, 0xED and 0xFD. -/
theorem decodeBase3_not_router (b n1 n2 : Byte) (hx : opX b = 3) (h1 : b ≠ 0xCB) (h2 : b ≠ 0xED) (h3 : b ≠ 0xDD)
    (h4 : b ≠ 0xFD) : (decodeBase3 b n1 n2).isRouter = false := by
  have key : ∀ b : Byte, opX b = 3 ∧ b ≠ 0xCB ∧ b ≠ 0xED ∧ b ≠ 0xDD ∧ b ≠ 0xFD →
      ¬(opZ b = 3 ∧ opY b = 1) ∧ ¬(opZ b = 5 ∧ (opY b = 3 ∨ opY b = 5 ∨ opY b = 7)) := by decide +kernel
  obtain ⟨k1, k2⟩ := key b ⟨hx, h1, h2, h3, h4⟩
  unfold decodeBase3
  dsimp only
  split
  · rfl
  · split <;> rfl
  · rfl
  · rename_i hz
    split
    · rfl
    · rename_i hy; exact absurd ⟨hz, hy⟩ k1
    all_goals rfl
  · rfl
  · rename_i hz
    split
    · rfl
    · rename_i hy; exact absurd ⟨hz, .inl hy⟩ k2
    · rename_i hy; exact absurd ⟨hz, .inr (.inl hy)⟩ k2
    · rename_i hy; exact absurd ⟨hz, .inr (.inr hy)⟩ k2
    · rfl
  · exact decodeAluN_not_router _ _
  · rfl

theorem decodeCB_not_router (b : Byte) : (decodeCB b).isRouter = false := by revert b; decide +kernel

theorem decodeED_not_router (b n1 n2 : Byte) : (decodeED b n1 n2).isRouter = false := by
  unfold decodeED
  split
  · unfold decodeED1 decodeED7
    dsimp only
    repeat' first | rfl | split
  · unfold decodeED2
    split <;> rfl
  · rfl

theorem decodeXYCB_not_router (x : Index) (d b : Byte) : (decodeXYCB x d b).isRouter = false := by
  unfold decodeXYCB decodeRotIndXYR decodeRotIndXY
  dsimp only
  repeat' first | rfl | split

theorem ite_not_router {c : Prop} [Decidable c] {i j : Instr} (hi : i.isRouter = false) (hj : j.isRouter = false) :
    (if c then i else j).isRouter = false := by split <;> assumption

theorem decodeXY_not_router (x : Index) (b n1 n2 : Byte) (h : b ≠ 0xCB) : (decodeXY x b n1 n2).isRouter = false := by
  unfold decodeXY
  split
  · unfold decodeXY1
    repeat' first | rfl | split
  · unfold decodeXY2 decodeAluXYH decodeAluXYL decodeAluIndXY
    repeat' first | rfl | split
  · unfold decodeXYRest
    simp only [if_neg h]
    repeat' first | refine ite_not_router ?_ ?_ | rfl

/-- A window holds an instruction, never a lead-in alone (R131). -/
theorem decodeWindow_not_router (b0 b1 b2 b3 : Byte) : (decodeWindow b0 b1 b2 b3).isRouter = false := by
  have hi : ∀ x, (decodeIndexed x b1 b2 b3).isRouter = false := fun x => by
    unfold decodeIndexed; split
    · exact decodeXYCB_not_router _ _ _
    · exact decodeXY_not_router _ _ _ _ (by assumption)
  unfold decodeWindow
  split
  · exact decodeCB_not_router _
  · split
    · exact decodeED_not_router _ _ _
    · split
      · exact hi _
      · split
        · exact hi _
        · unfold decodeBase
          split
          · exact decodeBase0_not_router _ _ _
          · exact decodeBase1_not_router _
          · exact decodeBase2_not_router _
          · exact decodeBase3_not_router _ _ _ (by assumption) (by assumption) (by assumption) (by assumption)
              (by assumption)

theorem decodeHead_not_router (l : List Byte) : (decodeHead l).isRouter = false := decodeWindow_not_router _ _ _ _

/-! ## The instruction at PC -/

theorem decodeHead_cons (b0 b1 b2 b3 : Byte) (l : List Byte) :
    decodeHead (b0 :: b1 :: b2 :: b3 :: l) = decodeWindow b0 b1 b2 b3 := rfl

theorem Machine.State.decodeAfter_nil (s : Machine.State) : s.decodeAfter [] =
    decodeWindow (s.byteAt s.regs.pc) (s.byteAt (s.regs.pc + 1)) (s.byteAt (s.regs.pc + 2))
      (s.byteAt (s.regs.pc + 3)) := rfl

theorem Machine.State.decodeAfter_one (s : Machine.State) (b : Byte) : s.decodeAfter [b] =
    decodeWindow b (s.byteAt s.regs.pc) (s.byteAt (s.regs.pc + 1)) (s.byteAt (s.regs.pc + 2)) := rfl

theorem Machine.State.decodeAfter_two (s : Machine.State) (b c : Byte) : s.decodeAfter [b, c] =
    decodeWindow b c (s.byteAt s.regs.pc) (s.byteAt (s.regs.pc + 1)) := rfl

end Sys2Proof
end

