-- ==== Sys2Proof/Laws/Chain.lean ====
section
/-!
SUPPORT. The chain of discarded DD and FD bytes (R138, R471): which bytes go on, that the fuel of the router is
enough wherever some byte of memory ends the chain, and that a memory of lead-ins never ends it.
-/

namespace Sys2Proof

/-! ## Which windows are an unassigned DD or FD entry -/

/-- An unassigned DD or FD entry. -/
def Instr.isUnassignedXY : Instr → Bool
  | .unassignedXY _ _ => true
  | _ => false

/-- A byte that a chain of R138 goes on with. -/
def chains (b : Byte) : Prop := b = 0xDD ∨ b = 0xFD

theorem decodeCB_not_xy (b : Byte) : (decodeCB b).isUnassignedXY = false := by revert b; decide +kernel

theorem decodeED_not_xy (b n1 n2 : Byte) : (decodeED b n1 n2).isUnassignedXY = false := by
  unfold decodeED
  split
  · unfold decodeED1 decodeED7
    dsimp only
    repeat' first | rfl | split
  · unfold decodeED2
    split <;> rfl
  · rfl

theorem decodeAluN_not_xy (n : Byte) (k : BitVec 3) : (decodeAluN n k).isUnassignedXY = false := by
  unfold decodeAluN; split <;> rfl

theorem decodeBase_not_xy (b n1 n2 : Byte) : (decodeBase b n1 n2).isUnassignedXY = false := by
  unfold decodeBase
  split
  · unfold decodeBase0
    dsimp only
    repeat' first | rfl | split
  · revert b; decide +kernel
  · revert b; decide +kernel
  · unfold decodeBase3
    dsimp only
    repeat' first | rfl | exact decodeAluN_not_xy _ _ | split

theorem decodeXYCB_not_xy (x : Index) (d b : Byte) : (decodeXYCB x d b).isUnassignedXY = false := by
  unfold decodeXYCB decodeRotIndXYR decodeRotIndXY
  dsimp only
  repeat' first | rfl | split

theorem ite_unassigned {c : Prop} [Decidable c] {i j : Instr} {b : Byte} {y : Index} {e : Byte}
    (hi : i = .unassignedXY y e → e = b) (hj : j = .unassignedXY y e → e = b)
    (h : (if c then i else j) = .unassignedXY y e) : e = b := by
  split at h
  · exact hi h
  · exact hj h

/-- An unassigned entry carries the byte after the lead-in. -/
theorem decodeXY_unassigned {x y : Index} {b n1 n2 c : Byte} (h : decodeXY x b n1 n2 = .unassignedXY y c) : c = b := by
  unfold decodeXY at h
  split at h
  · unfold decodeXY1 at h
    repeat' split at h
    all_goals cases h
    all_goals rfl
  · unfold decodeXY2 decodeAluXYH decodeAluXYL decodeAluIndXY at h
    repeat' split at h
    all_goals cases h
    all_goals rfl
  · unfold decodeXYRest at h
    revert h
    repeat' first | exact ite_unassigned (fun h => nomatch h) | refine ite_unassigned (fun h => nomatch h) ?_
    exact fun h => by cases h; rfl

/-- Only a DD or FD before its second byte is an unassigned DD or FD entry. -/
theorem decodeWindow_unassigned {b0 b1 b2 b3 c : Byte} {y : Index} (h : decodeWindow b0 b1 b2 b3 = .unassignedXY y c) :
    chains b0 ∧ c = b1 := by
  have no : ∀ i : Instr, i.isUnassignedXY = false → i ≠ .unassignedXY y c := by rintro i hi rfl; cases hi
  have hx : ∀ x, decodeIndexed x b1 b2 b3 = .unassignedXY y c → c = b1 := fun x h => by
    unfold decodeIndexed at h; split at h
    · exact absurd h (no _ (decodeXYCB_not_xy _ _ _))
    · exact decodeXY_unassigned h
  unfold decodeWindow at h
  split at h
  · exact absurd h (no _ (decodeCB_not_xy _))
  · split at h
    · exact absurd h (no _ (decodeED_not_xy _ _ _))
    · split at h
      · exact ⟨.inl ‹_›, hx _ h⟩
      · split at h
        · exact ⟨.inr ‹_›, hx _ h⟩
        · exact absurd h (no _ (decodeBase_not_xy _ _ _))

/-- Two lead-ins in a row are an unassigned entry. -/
theorem decodeWindow_chains {b0 b1 : Byte} (h0 : chains b0) (h1 : chains b1) (b2 b3 : Byte) :
    ∃ y, decodeWindow b0 b1 b2 b3 = .unassignedXY y b1 := by
  rcases h0 with rfl | rfl <;> rcases h1 with rfl | rfl <;> exact ⟨_, rfl⟩

namespace Machine

/-! ## The chain -/

theorem State.decodeAfter_one_unassigned {s : State} {b c : Byte} {y : Index}
    (h : s.decodeAfter [b] = .unassignedXY y c) : chains b ∧ c = s.byteAt s.regs.pc :=
  decodeWindow_unassigned h

theorem State.fetchAfter_params (s : State) (pre : List Byte) (i : Instr) : (s.fetchAfter pre i).params = s.params :=
  ((Evolves.refl s).fetchAfter pre i).params

theorem State.fetchAfter_byteAt (s : State) (pre : List Byte) (i : Instr) (a : Word) :
    (s.fetchAfter pre i).byteAt a = s.byteAt a := (State.fetchBytes_leaves _ s).1.1 a

/-- The second byte of an unassigned entry is the one byte still to fetch. -/
theorem State.fetchAfter_one_pc (s : State) (b c : Byte) (y : Index) :
    (s.fetchAfter [b] (.unassignedXY y c)).regs.pc = s.regs.pc + 1 := rfl

/-- One turn of the router. -/
theorem route_succ (n : Nat) (pre : List Byte) (s : State) :
    route (n + 1) pre s = runWith (route n) (s.decodeAfter pre) (s.fetchAfter pre (s.decodeAfter pre)) := by rw [route]

/-- More fuel changes nothing where a byte at most `k` after PC ends the chain. -/
theorem route_fuel (k : Nat) : ∀ (n : Nat) (s : State) (b : Byte), k + 2 ≤ n →
    ¬ chains (s.byteAt (s.regs.pc + BitVec.ofNat 16 k)) → route n [b] s = route (n + 1) [b] s := by
  induction k with
  | zero =>
    intro n s b hn hk
    obtain ⟨m, rfl⟩ := Nat.exists_eq_add_of_le' hn
    rw [route_succ (m + 1), route_succ (m + 1 + 1)]
    by_cases h : ∃ y c, s.decodeAfter [b] = .unassignedXY y c
    · obtain ⟨y, c, h⟩ := h
      obtain ⟨-, rfl⟩ := State.decodeAfter_one_unassigned h
      rw [h, runWith_unassignedXY, runWith_unassignedXY, unassignedIndexed, unassignedIndexed]
      split
      · rfl
      · rw [route_succ m, route_succ (m + 1)]
        refine runWith_any _ _ _ _ (decodeHead_not_router _) fun z d hz => hk ?_
        rw [show s.regs.pc + BitVec.ofNat 16 0 = s.regs.pc from BitVec.add_zero _]
        exact (State.decodeAfter_one_unassigned hz).1
    · exact runWith_any _ _ _ _ (decodeHead_not_router _) fun y c hy => h ⟨y, c, hy⟩
  | succ k ih =>
    intro n s b hn hk
    obtain ⟨m, rfl⟩ := Nat.exists_eq_add_of_le' hn
    have e : m + (k + 1 + 2) = m + k + 2 + 1 := by omega
    rw [e, route_succ (m + k + 2), route_succ (m + k + 2 + 1)]
    by_cases h : ∃ y c, s.decodeAfter [b] = .unassignedXY y c
    · obtain ⟨y, c, h⟩ := h
      rw [h, runWith_unassignedXY, runWith_unassignedXY, unassignedIndexed, unassignedIndexed]
      split
      · rfl
      · refine ih (m + k + 2) _ _ (by omega) ?_
        rw [State.fetchAfter_byteAt, State.fetchAfter_one_pc, add_assoc, show (1 : Word) = BitVec.ofNat 16 1 from rfl,
          ← BitVec.ofNat_add, add_comm 1 k]
        exact hk
    · exact runWith_any _ _ _ _ (decodeHead_not_router _) fun y c hy => h ⟨y, c, hy⟩

/-- Where every byte is a lead-in the chain has no end. -/
theorem route_endless (n : Nat) : ∀ (s : State) (b : Byte), s.params.ddfdUnassigned = .reexecute → chains b →
    (∀ a, chains (s.byteAt a)) → route n [b] s = .fault .endlessLeadIns := by
  induction n with
  | zero => intros; rfl
  | succ n ih =>
    intro s b hp hb ha
    obtain ⟨y, hy⟩ := decodeWindow_chains hb (ha s.regs.pc) (s.byteAt (s.regs.pc + 1)) (s.byteAt (s.regs.pc + 2))
    rw [route_succ, State.decodeAfter_one, hy, runWith_unassignedXY, unassignedIndexed, State.fetchAfter_params, hp]
    refine ih _ _ ?_ (ha _) fun a => ?_
    · rw [State.fetchAfter_params, hp]
    · rw [State.fetchAfter_byteAt]; exact ha a

/-- Some byte that is no lead-in stands at most 65,535 bytes after PC. -/
theorem State.chain_ends (s : State) (h : ∃ a, ¬ chains (s.byteAt a)) :
    ∃ k, k < 65536 ∧ ¬ chains (s.byteAt (s.regs.pc + BitVec.ofNat 16 k)) := by
  obtain ⟨a, ha⟩ := h
  refine ⟨(a - s.regs.pc).toNat, (a - s.regs.pc).isLt, ?_⟩
  rw [BitVec.ofNat_toNat, BitVec.setWidth_eq, add_sub_cancel]
  exact ha

end Machine

end Sys2Proof
end

