-- ==== Sys2Proof/Laws/PerInstr.lean ====
section
/-!
SUPPORT. Statements about every instruction as syntax, one lemma per constructor.

`EncodedLength`: the encoding of an instruction has as many bytes as its format has fetches, one to four (R132,
R134), and the bytes fetched as opcodes come first (R121 to R124).
-/

namespace Sys2Proof.Laws.EncodedLength

/-- The claim about one instruction. -/
def Statement (i : Instr) : Prop :=
  (encode i).length = i.length ∧ 1 ≤ i.length ∧ i.length ≤ 4 ∧ i.format.fetches.head? = some .op

theorem nop : Statement (.nop) := ⟨rfl, (Instr.length_bounds _).1, (Instr.length_bounds _).2, rfl⟩
theorem ldRpNn (p : Pair) (nn : Word) : Statement (.ldRpNn p nn) := ⟨rfl, (Instr.length_bounds _).1, (Instr.length_bounds _).2, rfl⟩
theorem ldIndBcA : Statement (.ldIndBcA) := ⟨rfl, (Instr.length_bounds _).1, (Instr.length_bounds _).2, rfl⟩
theorem ldIndDeA : Statement (.ldIndDeA) := ⟨rfl, (Instr.length_bounds _).1, (Instr.length_bounds _).2, rfl⟩
theorem ldAIndBc : Statement (.ldAIndBc) := ⟨rfl, (Instr.length_bounds _).1, (Instr.length_bounds _).2, rfl⟩
theorem ldAIndDe : Statement (.ldAIndDe) := ⟨rfl, (Instr.length_bounds _).1, (Instr.length_bounds _).2, rfl⟩
theorem incRp (p : Pair) : Statement (.incRp p) := ⟨rfl, (Instr.length_bounds _).1, (Instr.length_bounds _).2, rfl⟩
theorem decRp (p : Pair) : Statement (.decRp p) := ⟨rfl, (Instr.length_bounds _).1, (Instr.length_bounds _).2, rfl⟩
theorem incR (r : Reg8) : Statement (.incR r) := ⟨rfl, (Instr.length_bounds _).1, (Instr.length_bounds _).2, rfl⟩
theorem incIndHl : Statement (.incIndHl) := ⟨rfl, (Instr.length_bounds _).1, (Instr.length_bounds _).2, rfl⟩
theorem decR (r : Reg8) : Statement (.decR r) := ⟨rfl, (Instr.length_bounds _).1, (Instr.length_bounds _).2, rfl⟩
theorem decIndHl : Statement (.decIndHl) := ⟨rfl, (Instr.length_bounds _).1, (Instr.length_bounds _).2, rfl⟩
theorem ldRN (r : Reg8) (n : Byte) : Statement (.ldRN r n) := ⟨rfl, (Instr.length_bounds _).1, (Instr.length_bounds _).2, rfl⟩
theorem ldIndHlN (n : Byte) : Statement (.ldIndHlN n) := ⟨rfl, (Instr.length_bounds _).1, (Instr.length_bounds _).2, rfl⟩
theorem rlca : Statement (.rlca) := ⟨rfl, (Instr.length_bounds _).1, (Instr.length_bounds _).2, rfl⟩
theorem rrca : Statement (.rrca) := ⟨rfl, (Instr.length_bounds _).1, (Instr.length_bounds _).2, rfl⟩
theorem rla : Statement (.rla) := ⟨rfl, (Instr.length_bounds _).1, (Instr.length_bounds _).2, rfl⟩
theorem rra : Statement (.rra) := ⟨rfl, (Instr.length_bounds _).1, (Instr.length_bounds _).2, rfl⟩
theorem exAfAf : Statement (.exAfAf) := ⟨rfl, (Instr.length_bounds _).1, (Instr.length_bounds _).2, rfl⟩
theorem addHlRp (p : Pair) : Statement (.addHlRp p) := ⟨rfl, (Instr.length_bounds _).1, (Instr.length_bounds _).2, rfl⟩
theorem djnz (e : Byte) : Statement (.djnz e) := ⟨rfl, (Instr.length_bounds _).1, (Instr.length_bounds _).2, rfl⟩
theorem jr (e : Byte) : Statement (.jr e) := ⟨rfl, (Instr.length_bounds _).1, (Instr.length_bounds _).2, rfl⟩
theorem jrCc (cc : JrCond) (e : Byte) : Statement (.jrCc cc e) := ⟨rfl, (Instr.length_bounds _).1, (Instr.length_bounds _).2, rfl⟩
theorem ldIndNnHl (nn : Word) : Statement (.ldIndNnHl nn) := ⟨rfl, (Instr.length_bounds _).1, (Instr.length_bounds _).2, rfl⟩
theorem ldHlIndNn (nn : Word) : Statement (.ldHlIndNn nn) := ⟨rfl, (Instr.length_bounds _).1, (Instr.length_bounds _).2, rfl⟩
theorem ldIndNnA (nn : Word) : Statement (.ldIndNnA nn) := ⟨rfl, (Instr.length_bounds _).1, (Instr.length_bounds _).2, rfl⟩
theorem ldAIndNn (nn : Word) : Statement (.ldAIndNn nn) := ⟨rfl, (Instr.length_bounds _).1, (Instr.length_bounds _).2, rfl⟩
theorem daa : Statement (.daa) := ⟨rfl, (Instr.length_bounds _).1, (Instr.length_bounds _).2, rfl⟩
theorem cpl : Statement (.cpl) := ⟨rfl, (Instr.length_bounds _).1, (Instr.length_bounds _).2, rfl⟩
theorem scf : Statement (.scf) := ⟨rfl, (Instr.length_bounds _).1, (Instr.length_bounds _).2, rfl⟩
theorem ccf : Statement (.ccf) := ⟨rfl, (Instr.length_bounds _).1, (Instr.length_bounds _).2, rfl⟩
theorem ldRR (dst : Reg8) (src : Reg8) : Statement (.ldRR dst src) := ⟨rfl, (Instr.length_bounds _).1, (Instr.length_bounds _).2, rfl⟩
theorem ldRIndHl (r : Reg8) : Statement (.ldRIndHl r) := ⟨rfl, (Instr.length_bounds _).1, (Instr.length_bounds _).2, rfl⟩
theorem ldIndHlR (r : Reg8) : Statement (.ldIndHlR r) := ⟨rfl, (Instr.length_bounds _).1, (Instr.length_bounds _).2, rfl⟩
theorem halt : Statement (.halt) := ⟨rfl, (Instr.length_bounds _).1, (Instr.length_bounds _).2, rfl⟩
theorem addAR (r : Reg8) : Statement (.addAR r) := ⟨rfl, (Instr.length_bounds _).1, (Instr.length_bounds _).2, rfl⟩
theorem addAIndHl : Statement (.addAIndHl) := ⟨rfl, (Instr.length_bounds _).1, (Instr.length_bounds _).2, rfl⟩
theorem adcAR (r : Reg8) : Statement (.adcAR r) := ⟨rfl, (Instr.length_bounds _).1, (Instr.length_bounds _).2, rfl⟩
theorem adcAIndHl : Statement (.adcAIndHl) := ⟨rfl, (Instr.length_bounds _).1, (Instr.length_bounds _).2, rfl⟩
theorem subR (r : Reg8) : Statement (.subR r) := ⟨rfl, (Instr.length_bounds _).1, (Instr.length_bounds _).2, rfl⟩
theorem subIndHl : Statement (.subIndHl) := ⟨rfl, (Instr.length_bounds _).1, (Instr.length_bounds _).2, rfl⟩
theorem sbcAR (r : Reg8) : Statement (.sbcAR r) := ⟨rfl, (Instr.length_bounds _).1, (Instr.length_bounds _).2, rfl⟩
theorem sbcAIndHl : Statement (.sbcAIndHl) := ⟨rfl, (Instr.length_bounds _).1, (Instr.length_bounds _).2, rfl⟩
theorem andR (r : Reg8) : Statement (.andR r) := ⟨rfl, (Instr.length_bounds _).1, (Instr.length_bounds _).2, rfl⟩
theorem andIndHl : Statement (.andIndHl) := ⟨rfl, (Instr.length_bounds _).1, (Instr.length_bounds _).2, rfl⟩
theorem xorR (r : Reg8) : Statement (.xorR r) := ⟨rfl, (Instr.length_bounds _).1, (Instr.length_bounds _).2, rfl⟩
theorem xorIndHl : Statement (.xorIndHl) := ⟨rfl, (Instr.length_bounds _).1, (Instr.length_bounds _).2, rfl⟩
theorem orR (r : Reg8) : Statement (.orR r) := ⟨rfl, (Instr.length_bounds _).1, (Instr.length_bounds _).2, rfl⟩
theorem orIndHl : Statement (.orIndHl) := ⟨rfl, (Instr.length_bounds _).1, (Instr.length_bounds _).2, rfl⟩
theorem cpR (r : Reg8) : Statement (.cpR r) := ⟨rfl, (Instr.length_bounds _).1, (Instr.length_bounds _).2, rfl⟩
theorem cpIndHl : Statement (.cpIndHl) := ⟨rfl, (Instr.length_bounds _).1, (Instr.length_bounds _).2, rfl⟩
theorem addAN (n : Byte) : Statement (.addAN n) := ⟨rfl, (Instr.length_bounds _).1, (Instr.length_bounds _).2, rfl⟩
theorem adcAN (n : Byte) : Statement (.adcAN n) := ⟨rfl, (Instr.length_bounds _).1, (Instr.length_bounds _).2, rfl⟩
theorem subN (n : Byte) : Statement (.subN n) := ⟨rfl, (Instr.length_bounds _).1, (Instr.length_bounds _).2, rfl⟩
theorem sbcAN (n : Byte) : Statement (.sbcAN n) := ⟨rfl, (Instr.length_bounds _).1, (Instr.length_bounds _).2, rfl⟩
theorem andN (n : Byte) : Statement (.andN n) := ⟨rfl, (Instr.length_bounds _).1, (Instr.length_bounds _).2, rfl⟩
theorem xorN (n : Byte) : Statement (.xorN n) := ⟨rfl, (Instr.length_bounds _).1, (Instr.length_bounds _).2, rfl⟩
theorem orN (n : Byte) : Statement (.orN n) := ⟨rfl, (Instr.length_bounds _).1, (Instr.length_bounds _).2, rfl⟩
theorem cpN (n : Byte) : Statement (.cpN n) := ⟨rfl, (Instr.length_bounds _).1, (Instr.length_bounds _).2, rfl⟩
theorem retCc (cc : Cond) : Statement (.retCc cc) := ⟨rfl, (Instr.length_bounds _).1, (Instr.length_bounds _).2, rfl⟩
theorem popRp2 (p : StackPair) : Statement (.popRp2 p) := ⟨rfl, (Instr.length_bounds _).1, (Instr.length_bounds _).2, rfl⟩
theorem jpCcNn (cc : Cond) (nn : Word) : Statement (.jpCcNn cc nn) := ⟨rfl, (Instr.length_bounds _).1, (Instr.length_bounds _).2, rfl⟩
theorem jpNn (nn : Word) : Statement (.jpNn nn) := ⟨rfl, (Instr.length_bounds _).1, (Instr.length_bounds _).2, rfl⟩
theorem callCcNn (cc : Cond) (nn : Word) : Statement (.callCcNn cc nn) := ⟨rfl, (Instr.length_bounds _).1, (Instr.length_bounds _).2, rfl⟩
theorem pushRp2 (p : StackPair) : Statement (.pushRp2 p) := ⟨rfl, (Instr.length_bounds _).1, (Instr.length_bounds _).2, rfl⟩
theorem rst (t : BitVec 3) : Statement (.rst t) := ⟨rfl, (Instr.length_bounds _).1, (Instr.length_bounds _).2, rfl⟩
theorem ret : Statement (.ret) := ⟨rfl, (Instr.length_bounds _).1, (Instr.length_bounds _).2, rfl⟩
theorem prefixCB : Statement (.prefixCB) := ⟨rfl, (Instr.length_bounds _).1, (Instr.length_bounds _).2, rfl⟩
theorem callNn (nn : Word) : Statement (.callNn nn) := ⟨rfl, (Instr.length_bounds _).1, (Instr.length_bounds _).2, rfl⟩
theorem outIndNA (n : Byte) : Statement (.outIndNA n) := ⟨rfl, (Instr.length_bounds _).1, (Instr.length_bounds _).2, rfl⟩
theorem inAIndN (n : Byte) : Statement (.inAIndN n) := ⟨rfl, (Instr.length_bounds _).1, (Instr.length_bounds _).2, rfl⟩
theorem exx : Statement (.exx) := ⟨rfl, (Instr.length_bounds _).1, (Instr.length_bounds _).2, rfl⟩
theorem prefixDD : Statement (.prefixDD) := ⟨rfl, (Instr.length_bounds _).1, (Instr.length_bounds _).2, rfl⟩
theorem prefixFD : Statement (.prefixFD) := ⟨rfl, (Instr.length_bounds _).1, (Instr.length_bounds _).2, rfl⟩
theorem exIndSpHl : Statement (.exIndSpHl) := ⟨rfl, (Instr.length_bounds _).1, (Instr.length_bounds _).2, rfl⟩
theorem jpIndHl : Statement (.jpIndHl) := ⟨rfl, (Instr.length_bounds _).1, (Instr.length_bounds _).2, rfl⟩
theorem exDeHl : Statement (.exDeHl) := ⟨rfl, (Instr.length_bounds _).1, (Instr.length_bounds _).2, rfl⟩
theorem prefixED : Statement (.prefixED) := ⟨rfl, (Instr.length_bounds _).1, (Instr.length_bounds _).2, rfl⟩
theorem di : Statement (.di) := ⟨rfl, (Instr.length_bounds _).1, (Instr.length_bounds _).2, rfl⟩
theorem ei : Statement (.ei) := ⟨rfl, (Instr.length_bounds _).1, (Instr.length_bounds _).2, rfl⟩
theorem ldSpHl : Statement (.ldSpHl) := ⟨rfl, (Instr.length_bounds _).1, (Instr.length_bounds _).2, rfl⟩
theorem rlcR (r : Reg8) : Statement (.rlcR r) := ⟨rfl, (Instr.length_bounds _).1, (Instr.length_bounds _).2, rfl⟩
theorem rlcIndHl : Statement (.rlcIndHl) := ⟨rfl, (Instr.length_bounds _).1, (Instr.length_bounds _).2, rfl⟩
theorem rrcR (r : Reg8) : Statement (.rrcR r) := ⟨rfl, (Instr.length_bounds _).1, (Instr.length_bounds _).2, rfl⟩
theorem rrcIndHl : Statement (.rrcIndHl) := ⟨rfl, (Instr.length_bounds _).1, (Instr.length_bounds _).2, rfl⟩
theorem rlR (r : Reg8) : Statement (.rlR r) := ⟨rfl, (Instr.length_bounds _).1, (Instr.length_bounds _).2, rfl⟩
theorem rlIndHl : Statement (.rlIndHl) := ⟨rfl, (Instr.length_bounds _).1, (Instr.length_bounds _).2, rfl⟩
theorem rrR (r : Reg8) : Statement (.rrR r) := ⟨rfl, (Instr.length_bounds _).1, (Instr.length_bounds _).2, rfl⟩
theorem rrIndHl : Statement (.rrIndHl) := ⟨rfl, (Instr.length_bounds _).1, (Instr.length_bounds _).2, rfl⟩
theorem slaR (r : Reg8) : Statement (.slaR r) := ⟨rfl, (Instr.length_bounds _).1, (Instr.length_bounds _).2, rfl⟩
theorem slaIndHl : Statement (.slaIndHl) := ⟨rfl, (Instr.length_bounds _).1, (Instr.length_bounds _).2, rfl⟩
theorem sraR (r : Reg8) : Statement (.sraR r) := ⟨rfl, (Instr.length_bounds _).1, (Instr.length_bounds _).2, rfl⟩
theorem sraIndHl : Statement (.sraIndHl) := ⟨rfl, (Instr.length_bounds _).1, (Instr.length_bounds _).2, rfl⟩
theorem sllR (r : Reg8) : Statement (.sllR r) := ⟨rfl, (Instr.length_bounds _).1, (Instr.length_bounds _).2, rfl⟩
theorem sllIndHl : Statement (.sllIndHl) := ⟨rfl, (Instr.length_bounds _).1, (Instr.length_bounds _).2, rfl⟩
theorem srlR (r : Reg8) : Statement (.srlR r) := ⟨rfl, (Instr.length_bounds _).1, (Instr.length_bounds _).2, rfl⟩
theorem srlIndHl : Statement (.srlIndHl) := ⟨rfl, (Instr.length_bounds _).1, (Instr.length_bounds _).2, rfl⟩
theorem bitR (b : BitVec 3) (r : Reg8) : Statement (.bitR b r) := ⟨rfl, (Instr.length_bounds _).1, (Instr.length_bounds _).2, rfl⟩
theorem bitIndHl (b : BitVec 3) : Statement (.bitIndHl b) := ⟨rfl, (Instr.length_bounds _).1, (Instr.length_bounds _).2, rfl⟩
theorem resR (b : BitVec 3) (r : Reg8) : Statement (.resR b r) := ⟨rfl, (Instr.length_bounds _).1, (Instr.length_bounds _).2, rfl⟩
theorem resIndHl (b : BitVec 3) : Statement (.resIndHl b) := ⟨rfl, (Instr.length_bounds _).1, (Instr.length_bounds _).2, rfl⟩
theorem setR (b : BitVec 3) (r : Reg8) : Statement (.setR b r) := ⟨rfl, (Instr.length_bounds _).1, (Instr.length_bounds _).2, rfl⟩
theorem setIndHl (b : BitVec 3) : Statement (.setIndHl b) := ⟨rfl, (Instr.length_bounds _).1, (Instr.length_bounds _).2, rfl⟩
theorem inRIndC (r : Reg8) : Statement (.inRIndC r) := ⟨rfl, (Instr.length_bounds _).1, (Instr.length_bounds _).2, rfl⟩
theorem inFIndC : Statement (.inFIndC) := ⟨rfl, (Instr.length_bounds _).1, (Instr.length_bounds _).2, rfl⟩
theorem outIndCR (r : Reg8) : Statement (.outIndCR r) := ⟨rfl, (Instr.length_bounds _).1, (Instr.length_bounds _).2, rfl⟩
theorem outIndC0 : Statement (.outIndC0) := ⟨rfl, (Instr.length_bounds _).1, (Instr.length_bounds _).2, rfl⟩
theorem sbcHlRp (p : Pair) : Statement (.sbcHlRp p) := ⟨rfl, (Instr.length_bounds _).1, (Instr.length_bounds _).2, rfl⟩
theorem adcHlRp (p : Pair) : Statement (.adcHlRp p) := ⟨rfl, (Instr.length_bounds _).1, (Instr.length_bounds _).2, rfl⟩
theorem ldIndNnRp (nn : Word) (p : Pair) : Statement (.ldIndNnRp nn p) := ⟨rfl, (Instr.length_bounds _).1, (Instr.length_bounds _).2, rfl⟩
theorem ldRpIndNn (p : Pair) (nn : Word) : Statement (.ldRpIndNn p nn) := ⟨rfl, (Instr.length_bounds _).1, (Instr.length_bounds _).2, rfl⟩
theorem neg : Statement (.neg) := ⟨rfl, (Instr.length_bounds _).1, (Instr.length_bounds _).2, rfl⟩
theorem negAlias (y : BitVec 3) : Statement (.negAlias y) := ⟨rfl, (Instr.length_bounds _).1, (Instr.length_bounds _).2, rfl⟩
theorem retn : Statement (.retn) := ⟨rfl, (Instr.length_bounds _).1, (Instr.length_bounds _).2, rfl⟩
theorem reti : Statement (.reti) := ⟨rfl, (Instr.length_bounds _).1, (Instr.length_bounds _).2, rfl⟩
theorem retnAlias (y : BitVec 3) : Statement (.retnAlias y) := ⟨rfl, (Instr.length_bounds _).1, (Instr.length_bounds _).2, rfl⟩
theorem im0 : Statement (.im0) := ⟨rfl, (Instr.length_bounds _).1, (Instr.length_bounds _).2, rfl⟩
theorem im0Alias (y : BitVec 3) : Statement (.im0Alias y) := ⟨rfl, (Instr.length_bounds _).1, (Instr.length_bounds _).2, rfl⟩
theorem im1 : Statement (.im1) := ⟨rfl, (Instr.length_bounds _).1, (Instr.length_bounds _).2, rfl⟩
theorem im1Alias : Statement (.im1Alias) := ⟨rfl, (Instr.length_bounds _).1, (Instr.length_bounds _).2, rfl⟩
theorem im2 : Statement (.im2) := ⟨rfl, (Instr.length_bounds _).1, (Instr.length_bounds _).2, rfl⟩
theorem im2Alias : Statement (.im2Alias) := ⟨rfl, (Instr.length_bounds _).1, (Instr.length_bounds _).2, rfl⟩
theorem ldIA : Statement (.ldIA) := ⟨rfl, (Instr.length_bounds _).1, (Instr.length_bounds _).2, rfl⟩
theorem ldRA : Statement (.ldRA) := ⟨rfl, (Instr.length_bounds _).1, (Instr.length_bounds _).2, rfl⟩
theorem ldAI : Statement (.ldAI) := ⟨rfl, (Instr.length_bounds _).1, (Instr.length_bounds _).2, rfl⟩
theorem ldAR : Statement (.ldAR) := ⟨rfl, (Instr.length_bounds _).1, (Instr.length_bounds _).2, rfl⟩
theorem rrd : Statement (.rrd) := ⟨rfl, (Instr.length_bounds _).1, (Instr.length_bounds _).2, rfl⟩
theorem rld : Statement (.rld) := ⟨rfl, (Instr.length_bounds _).1, (Instr.length_bounds _).2, rfl⟩
theorem ldi : Statement (.ldi) := ⟨rfl, (Instr.length_bounds _).1, (Instr.length_bounds _).2, rfl⟩
theorem cpi : Statement (.cpi) := ⟨rfl, (Instr.length_bounds _).1, (Instr.length_bounds _).2, rfl⟩
theorem ini : Statement (.ini) := ⟨rfl, (Instr.length_bounds _).1, (Instr.length_bounds _).2, rfl⟩
theorem outi : Statement (.outi) := ⟨rfl, (Instr.length_bounds _).1, (Instr.length_bounds _).2, rfl⟩
theorem ldd : Statement (.ldd) := ⟨rfl, (Instr.length_bounds _).1, (Instr.length_bounds _).2, rfl⟩
theorem cpd : Statement (.cpd) := ⟨rfl, (Instr.length_bounds _).1, (Instr.length_bounds _).2, rfl⟩
theorem ind : Statement (.ind) := ⟨rfl, (Instr.length_bounds _).1, (Instr.length_bounds _).2, rfl⟩
theorem outd : Statement (.outd) := ⟨rfl, (Instr.length_bounds _).1, (Instr.length_bounds _).2, rfl⟩
theorem ldir : Statement (.ldir) := ⟨rfl, (Instr.length_bounds _).1, (Instr.length_bounds _).2, rfl⟩
theorem cpir : Statement (.cpir) := ⟨rfl, (Instr.length_bounds _).1, (Instr.length_bounds _).2, rfl⟩
theorem inir : Statement (.inir) := ⟨rfl, (Instr.length_bounds _).1, (Instr.length_bounds _).2, rfl⟩
theorem otir : Statement (.otir) := ⟨rfl, (Instr.length_bounds _).1, (Instr.length_bounds _).2, rfl⟩
theorem lddr : Statement (.lddr) := ⟨rfl, (Instr.length_bounds _).1, (Instr.length_bounds _).2, rfl⟩
theorem cpdr : Statement (.cpdr) := ⟨rfl, (Instr.length_bounds _).1, (Instr.length_bounds _).2, rfl⟩
theorem indr : Statement (.indr) := ⟨rfl, (Instr.length_bounds _).1, (Instr.length_bounds _).2, rfl⟩
theorem otdr : Statement (.otdr) := ⟨rfl, (Instr.length_bounds _).1, (Instr.length_bounds _).2, rfl⟩
theorem addXYRp (x : Index) (p : IndexPair) : Statement (.addXYRp x p) := ⟨rfl, (Instr.length_bounds _).1, (Instr.length_bounds _).2, rfl⟩
theorem ldXYNn (x : Index) (nn : Word) : Statement (.ldXYNn x nn) := ⟨rfl, (Instr.length_bounds _).1, (Instr.length_bounds _).2, rfl⟩
theorem ldIndNnXY (nn : Word) (x : Index) : Statement (.ldIndNnXY nn x) := ⟨rfl, (Instr.length_bounds _).1, (Instr.length_bounds _).2, rfl⟩
theorem ldXYIndNn (x : Index) (nn : Word) : Statement (.ldXYIndNn x nn) := ⟨rfl, (Instr.length_bounds _).1, (Instr.length_bounds _).2, rfl⟩
theorem incXY (x : Index) : Statement (.incXY x) := ⟨rfl, (Instr.length_bounds _).1, (Instr.length_bounds _).2, rfl⟩
theorem decXY (x : Index) : Statement (.decXY x) := ⟨rfl, (Instr.length_bounds _).1, (Instr.length_bounds _).2, rfl⟩
theorem incXYH (x : Index) : Statement (.incXYH x) := ⟨rfl, (Instr.length_bounds _).1, (Instr.length_bounds _).2, rfl⟩
theorem incXYL (x : Index) : Statement (.incXYL x) := ⟨rfl, (Instr.length_bounds _).1, (Instr.length_bounds _).2, rfl⟩
theorem decXYH (x : Index) : Statement (.decXYH x) := ⟨rfl, (Instr.length_bounds _).1, (Instr.length_bounds _).2, rfl⟩
theorem decXYL (x : Index) : Statement (.decXYL x) := ⟨rfl, (Instr.length_bounds _).1, (Instr.length_bounds _).2, rfl⟩
theorem ldXYHN (x : Index) (n : Byte) : Statement (.ldXYHN x n) := ⟨rfl, (Instr.length_bounds _).1, (Instr.length_bounds _).2, rfl⟩
theorem ldXYLN (x : Index) (n : Byte) : Statement (.ldXYLN x n) := ⟨rfl, (Instr.length_bounds _).1, (Instr.length_bounds _).2, rfl⟩
theorem incIndXY (x : Index) (d : Byte) : Statement (.incIndXY x d) := ⟨rfl, (Instr.length_bounds _).1, (Instr.length_bounds _).2, rfl⟩
theorem decIndXY (x : Index) (d : Byte) : Statement (.decIndXY x d) := ⟨rfl, (Instr.length_bounds _).1, (Instr.length_bounds _).2, rfl⟩
theorem ldIndXYN (x : Index) (d : Byte) (n : Byte) : Statement (.ldIndXYN x d n) := ⟨rfl, (Instr.length_bounds _).1, (Instr.length_bounds _).2, rfl⟩
theorem ldRXYH (r : Reg8) (x : Index) : Statement (.ldRXYH r x) := ⟨rfl, (Instr.length_bounds _).1, (Instr.length_bounds _).2, rfl⟩
theorem ldRXYL (r : Reg8) (x : Index) : Statement (.ldRXYL r x) := ⟨rfl, (Instr.length_bounds _).1, (Instr.length_bounds _).2, rfl⟩
theorem ldXYHR (x : Index) (src : IndexSrc) : Statement (.ldXYHR x src) := ⟨rfl, (Instr.length_bounds _).1, (Instr.length_bounds _).2, rfl⟩
theorem ldXYLR (x : Index) (src : IndexSrc) : Statement (.ldXYLR x src) := ⟨rfl, (Instr.length_bounds _).1, (Instr.length_bounds _).2, rfl⟩
theorem ldRIndXY (r : Reg8) (x : Index) (d : Byte) : Statement (.ldRIndXY r x d) := ⟨rfl, (Instr.length_bounds _).1, (Instr.length_bounds _).2, rfl⟩
theorem ldIndXYR (x : Index) (d : Byte) (r : Reg8) : Statement (.ldIndXYR x d r) := ⟨rfl, (Instr.length_bounds _).1, (Instr.length_bounds _).2, rfl⟩
theorem ldIndXYRegH (x : Index) (d : Byte) : Statement (.ldIndXYRegH x d) := ⟨rfl, (Instr.length_bounds _).1, (Instr.length_bounds _).2, rfl⟩
theorem ldIndXYRegL (x : Index) (d : Byte) : Statement (.ldIndXYRegL x d) := ⟨rfl, (Instr.length_bounds _).1, (Instr.length_bounds _).2, rfl⟩
theorem addAXYH (x : Index) : Statement (.addAXYH x) := ⟨rfl, (Instr.length_bounds _).1, (Instr.length_bounds _).2, rfl⟩
theorem addAXYL (x : Index) : Statement (.addAXYL x) := ⟨rfl, (Instr.length_bounds _).1, (Instr.length_bounds _).2, rfl⟩
theorem addAIndXY (x : Index) (d : Byte) : Statement (.addAIndXY x d) := ⟨rfl, (Instr.length_bounds _).1, (Instr.length_bounds _).2, rfl⟩
theorem adcAXYH (x : Index) : Statement (.adcAXYH x) := ⟨rfl, (Instr.length_bounds _).1, (Instr.length_bounds _).2, rfl⟩
theorem adcAXYL (x : Index) : Statement (.adcAXYL x) := ⟨rfl, (Instr.length_bounds _).1, (Instr.length_bounds _).2, rfl⟩
theorem adcAIndXY (x : Index) (d : Byte) : Statement (.adcAIndXY x d) := ⟨rfl, (Instr.length_bounds _).1, (Instr.length_bounds _).2, rfl⟩
theorem subXYH (x : Index) : Statement (.subXYH x) := ⟨rfl, (Instr.length_bounds _).1, (Instr.length_bounds _).2, rfl⟩
theorem subXYL (x : Index) : Statement (.subXYL x) := ⟨rfl, (Instr.length_bounds _).1, (Instr.length_bounds _).2, rfl⟩
theorem subIndXY (x : Index) (d : Byte) : Statement (.subIndXY x d) := ⟨rfl, (Instr.length_bounds _).1, (Instr.length_bounds _).2, rfl⟩
theorem sbcAXYH (x : Index) : Statement (.sbcAXYH x) := ⟨rfl, (Instr.length_bounds _).1, (Instr.length_bounds _).2, rfl⟩
theorem sbcAXYL (x : Index) : Statement (.sbcAXYL x) := ⟨rfl, (Instr.length_bounds _).1, (Instr.length_bounds _).2, rfl⟩
theorem sbcAIndXY (x : Index) (d : Byte) : Statement (.sbcAIndXY x d) := ⟨rfl, (Instr.length_bounds _).1, (Instr.length_bounds _).2, rfl⟩
theorem andXYH (x : Index) : Statement (.andXYH x) := ⟨rfl, (Instr.length_bounds _).1, (Instr.length_bounds _).2, rfl⟩
theorem andXYL (x : Index) : Statement (.andXYL x) := ⟨rfl, (Instr.length_bounds _).1, (Instr.length_bounds _).2, rfl⟩
theorem andIndXY (x : Index) (d : Byte) : Statement (.andIndXY x d) := ⟨rfl, (Instr.length_bounds _).1, (Instr.length_bounds _).2, rfl⟩
theorem xorXYH (x : Index) : Statement (.xorXYH x) := ⟨rfl, (Instr.length_bounds _).1, (Instr.length_bounds _).2, rfl⟩
theorem xorXYL (x : Index) : Statement (.xorXYL x) := ⟨rfl, (Instr.length_bounds _).1, (Instr.length_bounds _).2, rfl⟩
theorem xorIndXY (x : Index) (d : Byte) : Statement (.xorIndXY x d) := ⟨rfl, (Instr.length_bounds _).1, (Instr.length_bounds _).2, rfl⟩
theorem orXYH (x : Index) : Statement (.orXYH x) := ⟨rfl, (Instr.length_bounds _).1, (Instr.length_bounds _).2, rfl⟩
theorem orXYL (x : Index) : Statement (.orXYL x) := ⟨rfl, (Instr.length_bounds _).1, (Instr.length_bounds _).2, rfl⟩
theorem orIndXY (x : Index) (d : Byte) : Statement (.orIndXY x d) := ⟨rfl, (Instr.length_bounds _).1, (Instr.length_bounds _).2, rfl⟩
theorem cpXYH (x : Index) : Statement (.cpXYH x) := ⟨rfl, (Instr.length_bounds _).1, (Instr.length_bounds _).2, rfl⟩
theorem cpXYL (x : Index) : Statement (.cpXYL x) := ⟨rfl, (Instr.length_bounds _).1, (Instr.length_bounds _).2, rfl⟩
theorem cpIndXY (x : Index) (d : Byte) : Statement (.cpIndXY x d) := ⟨rfl, (Instr.length_bounds _).1, (Instr.length_bounds _).2, rfl⟩
theorem popXY (x : Index) : Statement (.popXY x) := ⟨rfl, (Instr.length_bounds _).1, (Instr.length_bounds _).2, rfl⟩
theorem pushXY (x : Index) : Statement (.pushXY x) := ⟨rfl, (Instr.length_bounds _).1, (Instr.length_bounds _).2, rfl⟩
theorem exIndSpXY (x : Index) : Statement (.exIndSpXY x) := ⟨rfl, (Instr.length_bounds _).1, (Instr.length_bounds _).2, rfl⟩
theorem jpIndXY (x : Index) : Statement (.jpIndXY x) := ⟨rfl, (Instr.length_bounds _).1, (Instr.length_bounds _).2, rfl⟩
theorem ldSpXY (x : Index) : Statement (.ldSpXY x) := ⟨rfl, (Instr.length_bounds _).1, (Instr.length_bounds _).2, rfl⟩
theorem prefixXYCB (x : Index) : Statement (.prefixXYCB x) := ⟨rfl, (Instr.length_bounds _).1, (Instr.length_bounds _).2, rfl⟩
theorem rlcIndXY (x : Index) (d : Byte) : Statement (.rlcIndXY x d) := ⟨rfl, (Instr.length_bounds _).1, (Instr.length_bounds _).2, rfl⟩
theorem rlcIndXYR (x : Index) (d : Byte) (r : Reg8) : Statement (.rlcIndXYR x d r) := ⟨rfl, (Instr.length_bounds _).1, (Instr.length_bounds _).2, rfl⟩
theorem rrcIndXY (x : Index) (d : Byte) : Statement (.rrcIndXY x d) := ⟨rfl, (Instr.length_bounds _).1, (Instr.length_bounds _).2, rfl⟩
theorem rrcIndXYR (x : Index) (d : Byte) (r : Reg8) : Statement (.rrcIndXYR x d r) := ⟨rfl, (Instr.length_bounds _).1, (Instr.length_bounds _).2, rfl⟩
theorem rlIndXY (x : Index) (d : Byte) : Statement (.rlIndXY x d) := ⟨rfl, (Instr.length_bounds _).1, (Instr.length_bounds _).2, rfl⟩
theorem rlIndXYR (x : Index) (d : Byte) (r : Reg8) : Statement (.rlIndXYR x d r) := ⟨rfl, (Instr.length_bounds _).1, (Instr.length_bounds _).2, rfl⟩
theorem rrIndXY (x : Index) (d : Byte) : Statement (.rrIndXY x d) := ⟨rfl, (Instr.length_bounds _).1, (Instr.length_bounds _).2, rfl⟩
theorem rrIndXYR (x : Index) (d : Byte) (r : Reg8) : Statement (.rrIndXYR x d r) := ⟨rfl, (Instr.length_bounds _).1, (Instr.length_bounds _).2, rfl⟩
theorem slaIndXY (x : Index) (d : Byte) : Statement (.slaIndXY x d) := ⟨rfl, (Instr.length_bounds _).1, (Instr.length_bounds _).2, rfl⟩
theorem slaIndXYR (x : Index) (d : Byte) (r : Reg8) : Statement (.slaIndXYR x d r) := ⟨rfl, (Instr.length_bounds _).1, (Instr.length_bounds _).2, rfl⟩
theorem sraIndXY (x : Index) (d : Byte) : Statement (.sraIndXY x d) := ⟨rfl, (Instr.length_bounds _).1, (Instr.length_bounds _).2, rfl⟩
theorem sraIndXYR (x : Index) (d : Byte) (r : Reg8) : Statement (.sraIndXYR x d r) := ⟨rfl, (Instr.length_bounds _).1, (Instr.length_bounds _).2, rfl⟩
theorem sllIndXY (x : Index) (d : Byte) : Statement (.sllIndXY x d) := ⟨rfl, (Instr.length_bounds _).1, (Instr.length_bounds _).2, rfl⟩
theorem sllIndXYR (x : Index) (d : Byte) (r : Reg8) : Statement (.sllIndXYR x d r) := ⟨rfl, (Instr.length_bounds _).1, (Instr.length_bounds _).2, rfl⟩
theorem srlIndXY (x : Index) (d : Byte) : Statement (.srlIndXY x d) := ⟨rfl, (Instr.length_bounds _).1, (Instr.length_bounds _).2, rfl⟩
theorem srlIndXYR (x : Index) (d : Byte) (r : Reg8) : Statement (.srlIndXYR x d r) := ⟨rfl, (Instr.length_bounds _).1, (Instr.length_bounds _).2, rfl⟩
theorem bitIndXY (b : BitVec 3) (x : Index) (d : Byte) : Statement (.bitIndXY b x d) := ⟨rfl, (Instr.length_bounds _).1, (Instr.length_bounds _).2, rfl⟩
theorem bitIndXYAlias (b : BitVec 3) (x : Index) (d : Byte) (r : Reg8) : Statement (.bitIndXYAlias b x d r) := ⟨rfl, (Instr.length_bounds _).1, (Instr.length_bounds _).2, rfl⟩
theorem resIndXY (b : BitVec 3) (x : Index) (d : Byte) : Statement (.resIndXY b x d) := ⟨rfl, (Instr.length_bounds _).1, (Instr.length_bounds _).2, rfl⟩
theorem resIndXYR (b : BitVec 3) (x : Index) (d : Byte) (r : Reg8) : Statement (.resIndXYR b x d r) := ⟨rfl, (Instr.length_bounds _).1, (Instr.length_bounds _).2, rfl⟩
theorem setIndXY (b : BitVec 3) (x : Index) (d : Byte) : Statement (.setIndXY b x d) := ⟨rfl, (Instr.length_bounds _).1, (Instr.length_bounds _).2, rfl⟩
theorem setIndXYR (b : BitVec 3) (x : Index) (d : Byte) (r : Reg8) : Statement (.setIndXYR b x d r) := ⟨rfl, (Instr.length_bounds _).1, (Instr.length_bounds _).2, rfl⟩
theorem unassignedED (b : Byte) : Statement (.unassignedED b) := ⟨rfl, (Instr.length_bounds _).1, (Instr.length_bounds _).2, rfl⟩
theorem unassignedXY (x : Index) (b : Byte) : Statement (.unassignedXY x b) := ⟨rfl, (Instr.length_bounds _).1, (Instr.length_bounds _).2, rfl⟩

end Sys2Proof.Laws.EncodedLength
end

