-- ==== Sys2Proof/Laws/Run.lean ====
section
/-!
SUPPORT. The end of a run (R516): how it is found one call at a time, that there is at most one, and that it is a
state reached by `step()`.
-/

namespace Sys2Proof.Machine

/-- One call of the host decides the end or passes it on. -/
theorem State.finalWithin_next {s u : State} (h : step s = .next u) (e : RunEnd) (n : Nat) :
    s.finalWithin e (n + 1) = if s.endsWith u e then some u else u.finalWithin e n := by
  rw [State.finalWithin, h]

theorem State.finalWithin_fault {s : State} {f : Fault} (h : step s = .fault f) (e : RunEnd) (n : Nat) :
    s.finalWithin e n = none := by
  cases n with
  | zero => rfl
  | succ n => rw [State.finalWithin, h]

theorem State.finalWithin_refused {s : State} {r : Refusal} (h : step s = .refused r) (e : RunEnd) (n : Nat) :
    s.finalWithin e n = none := by
  cases n with
  | zero => rfl
  | succ n => rw [State.finalWithin, h]

/-- A longer search finds the same end. -/
theorem State.finalWithin_succ {s t : State} {e : RunEnd} {n : Nat} (h : s.finalWithin e n = some t) :
    s.finalWithin e (n + 1) = some t := by
  induction n generalizing s with
  | zero => cases h
  | succ n ih =>
    cases hs : step s with
    | next u =>
      rw [State.finalWithin_next hs] at h ⊢
      split at h
      · exact (if_pos ‹_›).trans h
      · exact (if_neg ‹_›).trans (ih h)
    | fault f => rw [State.finalWithin_fault hs] at h; cases h
    | refused r => rw [State.finalWithin_refused hs] at h; cases h

theorem State.finalWithin_le {s t : State} {e : RunEnd} {n m : Nat} (hn : n ≤ m) (h : s.finalWithin e n = some t) :
    s.finalWithin e m = some t := by
  induction hn with
  | refl => exact h
  | step _ ih => exact State.finalWithin_succ ih

/-- A run has at most one final state: the first. -/
theorem State.EndsIn.unique {s t u : State} {e : RunEnd} (ht : s.EndsIn e t) (hu : s.EndsIn e u) : t = u := by
  obtain ⟨n, hn⟩ := ht
  obtain ⟨m, hm⟩ := hu
  have h := (State.finalWithin_le (le_max_left n m) hn).symm.trans (State.finalWithin_le (le_max_right n m) hm)
  cases h
  rfl

/-- The final state is the state after a `step()` and meets the end: no launch, delivery, reset or host write is. -/
theorem State.EndsIn.reached {s t : State} {e : RunEnd} (h : s.EndsIn e t) :
    ∃ u, step u = .next t ∧ u.nextCall = .step ∧ t.meets e = true := by
  obtain ⟨n, hn⟩ := h
  induction n generalizing s with
  | zero => cases hn
  | succ n ih =>
    cases hs : step s with
    | next u =>
      rw [State.finalWithin_next hs] at hn
      split at hn
      · rename_i h
        cases hn
        obtain ⟨h1, h2⟩ := (Bool.and_eq_true _ _).mp h
        exact ⟨s, hs, eq_of_beq h1, h2⟩
      · exact ih hn
    | fault f => rw [State.finalWithin_fault hs] at hn; cases hn
    | refused r => rw [State.finalWithin_refused hs] at hn; cases hn

/-- The end of a run is the next state where that state ends it, and else the end of the run from there: so it is
the first. -/
theorem State.endsIn_next_iff {s u t : State} (h : step s = .next u) (e : RunEnd) :
    s.EndsIn e t ↔ if s.endsWith u e then t = u else u.EndsIn e t := by
  constructor
  · rintro ⟨n, hn⟩
    cases n with
    | zero => cases hn
    | succ n =>
      rw [State.finalWithin_next h] at hn
      split at hn
      · rename_i hc; rw [if_pos hc]; cases hn; rfl
      · rename_i hc; rw [if_neg hc]; exact ⟨n, hn⟩
  · intro ht
    split at ht
    · exact ⟨1, by rw [State.finalWithin_next h, if_pos ‹_›, ht]⟩
    · obtain ⟨n, hn⟩ := ht
      exact ⟨n + 1, by rw [State.finalWithin_next h, if_neg ‹_›, hn]⟩

/-- A run has an end or never ends. -/
theorem State.neverEnds_iff (s : State) (e : RunEnd) : s.NeverEnds e ↔ ∀ t, ¬ s.EndsIn e t := by
  constructor
  · rintro h t ⟨n, hn⟩
    rw [h n] at hn
    cases hn
  · intro h n
    cases hn : s.finalWithin e n with
    | none => rfl
    | some t => exact absurd ⟨n, hn⟩ (h t)

end Sys2Proof.Machine
end

