-- ==== Sys2Proof/Tests/Slice0.lean ====
section
/-!
SUPPORT. Tests. Expected results come from spec/opcode_table.json's patterns with the codes of R126 to R128 (the
decode tests) and from spec/95_test_vectors.md (the step tests, each named by its vector). The witnesses show that
the premises of each statement can be met.
-/

open Sys2Proof Sys2Proof.Machine

namespace Sys2Proof.Tests

/-! ## Well-formedness: one ill-formed term for each check -/

theorem test_wf_refuses_ldRXYH_h : Instr.wellFormed (.ldRXYH .h .ix) = false := by decide
theorem test_wf_refuses_ldRXYL_l : Instr.wellFormed (.ldRXYL .l .iy) = false := by decide
theorem test_wf_refuses_ldIndXYR_h : Instr.wellFormed (.ldIndXYR .ix 0x01 .h) = false := by decide
theorem test_wf_refuses_negAlias_0 : Instr.wellFormed (.negAlias 0) = false := by decide
theorem test_wf_refuses_retnAlias_0 : Instr.wellFormed (.retnAlias 0) = false := by decide
theorem test_wf_refuses_retnAlias_1 : Instr.wellFormed (.retnAlias 1) = false := by decide
theorem test_wf_refuses_im0Alias_2 : Instr.wellFormed (.im0Alias 2) = false := by decide
theorem test_wf_refuses_unassignedED_44 : Instr.wellFormed (.unassignedED 0x44) = false := by decide
theorem test_wf_refuses_unassignedXY_21 : Instr.wellFormed (.unassignedXY .ix 0x21) = false := by decide
theorem test_wf_admits : [Instr.ldRXYH .a .ix, .ldIndXYR .iy 0x80 .b, .negAlias 7, .retnAlias 2, .im0Alias 1,
    .unassignedED 0x00, .unassignedXY .iy 0x00].all Instr.wellFormed = true := by decide

/-! ## Decoding: a word written out from the table's pattern of every row -/

theorem test_decode_rows_001 :
    decode [0x00] = .ok (.nop, [])
    ∧ decode [0x21, 0x34, 0x12] = .ok (.ldRpNn .hl 0x1234, [])
    ∧ decode [0x02] = .ok (.ldIndBcA, [])
    ∧ decode [0x12] = .ok (.ldIndDeA, [])
    ∧ decode [0x0A] = .ok (.ldAIndBc, [])
    ∧ decode [0x1A] = .ok (.ldAIndDe, [])
    ∧ decode [0x13] = .ok (.incRp .de, [])
    ∧ decode [0x0B] = .ok (.decRp .bc, [])
    ∧ decode [0x1C] = .ok (.incR .e, [])
    ∧ decode [0x34] = .ok (.incIndHl, [])
    ∧ decode [0x1D] = .ok (.decR .e, [])
    ∧ decode [0x35] = .ok (.decIndHl, []) := by
  and_intros <;> rfl

theorem test_decode_rows_013 :
    decode [0x1E, 0x42] = .ok (.ldRN .e 0x42, [])
    ∧ decode [0x36, 0x42] = .ok (.ldIndHlN 0x42, [])
    ∧ decode [0x07] = .ok (.rlca, [])
    ∧ decode [0x0F] = .ok (.rrca, [])
    ∧ decode [0x17] = .ok (.rla, [])
    ∧ decode [0x1F] = .ok (.rra, [])
    ∧ decode [0x08] = .ok (.exAfAf, [])
    ∧ decode [0x09] = .ok (.addHlRp .bc, [])
    ∧ decode [0x10, 0xFB] = .ok (.djnz 0xFB, [])
    ∧ decode [0x18, 0xFB] = .ok (.jr 0xFB, [])
    ∧ decode [0x28, 0xFB] = .ok (.jrCc .z 0xFB, [])
    ∧ decode [0x22, 0x34, 0x12] = .ok (.ldIndNnHl 0x1234, []) := by
  and_intros <;> rfl

theorem test_decode_rows_025 :
    decode [0x2A, 0x34, 0x12] = .ok (.ldHlIndNn 0x1234, [])
    ∧ decode [0x32, 0x34, 0x12] = .ok (.ldIndNnA 0x1234, [])
    ∧ decode [0x3A, 0x34, 0x12] = .ok (.ldAIndNn 0x1234, [])
    ∧ decode [0x27] = .ok (.daa, [])
    ∧ decode [0x2F] = .ok (.cpl, [])
    ∧ decode [0x37] = .ok (.scf, [])
    ∧ decode [0x3F] = .ok (.ccf, [])
    ∧ decode [0x5B] = .ok (.ldRR .e .e, [])
    ∧ decode [0x5E] = .ok (.ldRIndHl .e, [])
    ∧ decode [0x73] = .ok (.ldIndHlR .e, [])
    ∧ decode [0x76] = .ok (.halt, [])
    ∧ decode [0x83] = .ok (.addAR .e, []) := by
  and_intros <;> rfl

theorem test_decode_rows_037 :
    decode [0x86] = .ok (.addAIndHl, [])
    ∧ decode [0x8B] = .ok (.adcAR .e, [])
    ∧ decode [0x8E] = .ok (.adcAIndHl, [])
    ∧ decode [0x93] = .ok (.subR .e, [])
    ∧ decode [0x96] = .ok (.subIndHl, [])
    ∧ decode [0x9B] = .ok (.sbcAR .e, [])
    ∧ decode [0x9E] = .ok (.sbcAIndHl, [])
    ∧ decode [0xA3] = .ok (.andR .e, [])
    ∧ decode [0xA6] = .ok (.andIndHl, [])
    ∧ decode [0xAB] = .ok (.xorR .e, [])
    ∧ decode [0xAE] = .ok (.xorIndHl, [])
    ∧ decode [0xB3] = .ok (.orR .e, []) := by
  and_intros <;> rfl

theorem test_decode_rows_049 :
    decode [0xB6] = .ok (.orIndHl, [])
    ∧ decode [0xBB] = .ok (.cpR .e, [])
    ∧ decode [0xBE] = .ok (.cpIndHl, [])
    ∧ decode [0xC6, 0x42] = .ok (.addAN 0x42, [])
    ∧ decode [0xCE, 0x42] = .ok (.adcAN 0x42, [])
    ∧ decode [0xD6, 0x42] = .ok (.subN 0x42, [])
    ∧ decode [0xDE, 0x42] = .ok (.sbcAN 0x42, [])
    ∧ decode [0xE6, 0x42] = .ok (.andN 0x42, [])
    ∧ decode [0xEE, 0x42] = .ok (.xorN 0x42, [])
    ∧ decode [0xF6, 0x42] = .ok (.orN 0x42, [])
    ∧ decode [0xFE, 0x42] = .ok (.cpN 0x42, [])
    ∧ decode [0xC0] = .ok (.retCc .nz, []) := by
  and_intros <;> rfl

theorem test_decode_rows_061 :
    decode [0xF1] = .ok (.popRp2 .af, [])
    ∧ decode [0xF2, 0x34, 0x12] = .ok (.jpCcNn .p 0x1234, [])
    ∧ decode [0xC3, 0x34, 0x12] = .ok (.jpNn 0x1234, [])
    ∧ decode [0xE4, 0x34, 0x12] = .ok (.callCcNn .po 0x1234, [])
    ∧ decode [0xF5] = .ok (.pushRp2 .af, [])
    ∧ decode [0xD7] = .ok (.rst 2, [])
    ∧ decode [0xC9] = .ok (.ret, [])
    ∧ decode [0xCB] = .ok (.prefixCB, [])
    ∧ decode [0xCD, 0x34, 0x12] = .ok (.callNn 0x1234, [])
    ∧ decode [0xD3, 0x42] = .ok (.outIndNA 0x42, [])
    ∧ decode [0xDB, 0x42] = .ok (.inAIndN 0x42, [])
    ∧ decode [0xD9] = .ok (.exx, []) := by
  and_intros <;> rfl

theorem test_decode_rows_073 :
    decode [0xDD] = .ok (.prefixDD, [])
    ∧ decode [0xFD] = .ok (.prefixFD, [])
    ∧ decode [0xE3] = .ok (.exIndSpHl, [])
    ∧ decode [0xE9] = .ok (.jpIndHl, [])
    ∧ decode [0xEB] = .ok (.exDeHl, [])
    ∧ decode [0xED] = .ok (.prefixED, [])
    ∧ decode [0xF3] = .ok (.di, [])
    ∧ decode [0xFB] = .ok (.ei, [])
    ∧ decode [0xF9] = .ok (.ldSpHl, [])
    ∧ decode [0xCB, 0x03] = .ok (.rlcR .e, [])
    ∧ decode [0xCB, 0x06] = .ok (.rlcIndHl, [])
    ∧ decode [0xCB, 0x0B] = .ok (.rrcR .e, []) := by
  and_intros <;> rfl

theorem test_decode_rows_085 :
    decode [0xCB, 0x0E] = .ok (.rrcIndHl, [])
    ∧ decode [0xCB, 0x13] = .ok (.rlR .e, [])
    ∧ decode [0xCB, 0x16] = .ok (.rlIndHl, [])
    ∧ decode [0xCB, 0x1B] = .ok (.rrR .e, [])
    ∧ decode [0xCB, 0x1E] = .ok (.rrIndHl, [])
    ∧ decode [0xCB, 0x23] = .ok (.slaR .e, [])
    ∧ decode [0xCB, 0x26] = .ok (.slaIndHl, [])
    ∧ decode [0xCB, 0x2B] = .ok (.sraR .e, [])
    ∧ decode [0xCB, 0x2E] = .ok (.sraIndHl, [])
    ∧ decode [0xCB, 0x33] = .ok (.sllR .e, [])
    ∧ decode [0xCB, 0x36] = .ok (.sllIndHl, [])
    ∧ decode [0xCB, 0x3B] = .ok (.srlR .e, []) := by
  and_intros <;> rfl

theorem test_decode_rows_097 :
    decode [0xCB, 0x3E] = .ok (.srlIndHl, [])
    ∧ decode [0xCB, 0x4B] = .ok (.bitR 1 .e, [])
    ∧ decode [0xCB, 0x4E] = .ok (.bitIndHl 1, [])
    ∧ decode [0xCB, 0x9B] = .ok (.resR 3 .e, [])
    ∧ decode [0xCB, 0xBE] = .ok (.resIndHl 7, [])
    ∧ decode [0xCB, 0xEB] = .ok (.setR 5 .e, [])
    ∧ decode [0xCB, 0xEE] = .ok (.setIndHl 5, [])
    ∧ decode [0xED, 0x58] = .ok (.inRIndC .e, [])
    ∧ decode [0xED, 0x70] = .ok (.inFIndC, [])
    ∧ decode [0xED, 0x59] = .ok (.outIndCR .e, [])
    ∧ decode [0xED, 0x71] = .ok (.outIndC0, [])
    ∧ decode [0xED, 0x42] = .ok (.sbcHlRp .bc, []) := by
  and_intros <;> rfl

theorem test_decode_rows_109 :
    decode [0xED, 0x7A] = .ok (.adcHlRp .sp, [])
    ∧ decode [0xED, 0x63, 0x34, 0x12] = .ok (.ldIndNnRp 0x1234 .hl, [])
    ∧ decode [0xED, 0x5B, 0x34, 0x12] = .ok (.ldRpIndNn .de 0x1234, [])
    ∧ decode [0xED, 0x44] = .ok (.neg, [])
    ∧ decode [0xED, 0x64] = .ok (.negAlias 4, [])
    ∧ decode [0xED, 0x45] = .ok (.retn, [])
    ∧ decode [0xED, 0x4D] = .ok (.reti, [])
    ∧ decode [0xED, 0x75] = .ok (.retnAlias 6, [])
    ∧ decode [0xED, 0x46] = .ok (.im0, [])
    ∧ decode [0xED, 0x4E] = .ok (.im0Alias 1, [])
    ∧ decode [0xED, 0x56] = .ok (.im1, [])
    ∧ decode [0xED, 0x76] = .ok (.im1Alias, []) := by
  and_intros <;> rfl

theorem test_decode_rows_121 :
    decode [0xED, 0x5E] = .ok (.im2, [])
    ∧ decode [0xED, 0x7E] = .ok (.im2Alias, [])
    ∧ decode [0xED, 0x47] = .ok (.ldIA, [])
    ∧ decode [0xED, 0x4F] = .ok (.ldRA, [])
    ∧ decode [0xED, 0x57] = .ok (.ldAI, [])
    ∧ decode [0xED, 0x5F] = .ok (.ldAR, [])
    ∧ decode [0xED, 0x67] = .ok (.rrd, [])
    ∧ decode [0xED, 0x6F] = .ok (.rld, [])
    ∧ decode [0xED, 0xA0] = .ok (.ldi, [])
    ∧ decode [0xED, 0xA1] = .ok (.cpi, [])
    ∧ decode [0xED, 0xA2] = .ok (.ini, [])
    ∧ decode [0xED, 0xA3] = .ok (.outi, []) := by
  and_intros <;> rfl

theorem test_decode_rows_133 :
    decode [0xED, 0xA8] = .ok (.ldd, [])
    ∧ decode [0xED, 0xA9] = .ok (.cpd, [])
    ∧ decode [0xED, 0xAA] = .ok (.ind, [])
    ∧ decode [0xED, 0xAB] = .ok (.outd, [])
    ∧ decode [0xED, 0xB0] = .ok (.ldir, [])
    ∧ decode [0xED, 0xB1] = .ok (.cpir, [])
    ∧ decode [0xED, 0xB2] = .ok (.inir, [])
    ∧ decode [0xED, 0xB3] = .ok (.otir, [])
    ∧ decode [0xED, 0xB8] = .ok (.lddr, [])
    ∧ decode [0xED, 0xB9] = .ok (.cpdr, [])
    ∧ decode [0xED, 0xBA] = .ok (.indr, [])
    ∧ decode [0xED, 0xBB] = .ok (.otdr, []) := by
  and_intros <;> rfl

theorem test_decode_rows_145 :
    decode [0xDD, 0x39] = .ok (.addXYRp .ix .sp, [])
    ∧ decode [0xFD, 0x21, 0x34, 0x12] = .ok (.ldXYNn .iy 0x1234, [])
    ∧ decode [0xDD, 0x22, 0x34, 0x12] = .ok (.ldIndNnXY 0x1234 .ix, [])
    ∧ decode [0xFD, 0x2A, 0x34, 0x12] = .ok (.ldXYIndNn .iy 0x1234, [])
    ∧ decode [0xDD, 0x23] = .ok (.incXY .ix, [])
    ∧ decode [0xFD, 0x2B] = .ok (.decXY .iy, [])
    ∧ decode [0xDD, 0x24] = .ok (.incXYH .ix, [])
    ∧ decode [0xFD, 0x2C] = .ok (.incXYL .iy, [])
    ∧ decode [0xDD, 0x25] = .ok (.decXYH .ix, [])
    ∧ decode [0xFD, 0x2D] = .ok (.decXYL .iy, [])
    ∧ decode [0xDD, 0x26, 0x42] = .ok (.ldXYHN .ix 0x42, [])
    ∧ decode [0xFD, 0x2E, 0x42] = .ok (.ldXYLN .iy 0x42, []) := by
  and_intros <;> rfl

theorem test_decode_rows_157 :
    decode [0xDD, 0x34, 0x85] = .ok (.incIndXY .ix 0x85, [])
    ∧ decode [0xFD, 0x35, 0x85] = .ok (.decIndXY .iy 0x85, [])
    ∧ decode [0xDD, 0x36, 0x85, 0x42] = .ok (.ldIndXYN .ix 0x85 0x42, [])
    ∧ decode [0xFD, 0x4C] = .ok (.ldRXYH .c .iy, [])
    ∧ decode [0xDD, 0x5D] = .ok (.ldRXYL .e .ix, [])
    ∧ decode [0xFD, 0x63] = .ok (.ldXYHR .iy .e, [])
    ∧ decode [0xDD, 0x6B] = .ok (.ldXYLR .ix .e, [])
    ∧ decode [0xFD, 0x5E, 0x85] = .ok (.ldRIndXY .e .iy 0x85, [])
    ∧ decode [0xDD, 0x71, 0x85] = .ok (.ldIndXYR .ix 0x85 .c, [])
    ∧ decode [0xFD, 0x74, 0x85] = .ok (.ldIndXYRegH .iy 0x85, [])
    ∧ decode [0xDD, 0x75, 0x85] = .ok (.ldIndXYRegL .ix 0x85, [])
    ∧ decode [0xFD, 0x84] = .ok (.addAXYH .iy, []) := by
  and_intros <;> rfl

theorem test_decode_rows_169 :
    decode [0xDD, 0x85] = .ok (.addAXYL .ix, [])
    ∧ decode [0xFD, 0x86, 0x85] = .ok (.addAIndXY .iy 0x85, [])
    ∧ decode [0xDD, 0x8C] = .ok (.adcAXYH .ix, [])
    ∧ decode [0xFD, 0x8D] = .ok (.adcAXYL .iy, [])
    ∧ decode [0xDD, 0x8E, 0x85] = .ok (.adcAIndXY .ix 0x85, [])
    ∧ decode [0xFD, 0x94] = .ok (.subXYH .iy, [])
    ∧ decode [0xDD, 0x95] = .ok (.subXYL .ix, [])
    ∧ decode [0xFD, 0x96, 0x85] = .ok (.subIndXY .iy 0x85, [])
    ∧ decode [0xDD, 0x9C] = .ok (.sbcAXYH .ix, [])
    ∧ decode [0xFD, 0x9D] = .ok (.sbcAXYL .iy, [])
    ∧ decode [0xDD, 0x9E, 0x85] = .ok (.sbcAIndXY .ix 0x85, [])
    ∧ decode [0xFD, 0xA4] = .ok (.andXYH .iy, []) := by
  and_intros <;> rfl

theorem test_decode_rows_181 :
    decode [0xDD, 0xA5] = .ok (.andXYL .ix, [])
    ∧ decode [0xFD, 0xA6, 0x85] = .ok (.andIndXY .iy 0x85, [])
    ∧ decode [0xDD, 0xAC] = .ok (.xorXYH .ix, [])
    ∧ decode [0xFD, 0xAD] = .ok (.xorXYL .iy, [])
    ∧ decode [0xDD, 0xAE, 0x85] = .ok (.xorIndXY .ix 0x85, [])
    ∧ decode [0xFD, 0xB4] = .ok (.orXYH .iy, [])
    ∧ decode [0xDD, 0xB5] = .ok (.orXYL .ix, [])
    ∧ decode [0xFD, 0xB6, 0x85] = .ok (.orIndXY .iy 0x85, [])
    ∧ decode [0xDD, 0xBC] = .ok (.cpXYH .ix, [])
    ∧ decode [0xFD, 0xBD] = .ok (.cpXYL .iy, [])
    ∧ decode [0xDD, 0xBE, 0x85] = .ok (.cpIndXY .ix 0x85, [])
    ∧ decode [0xFD, 0xE1] = .ok (.popXY .iy, []) := by
  and_intros <;> rfl

theorem test_decode_rows_193 :
    decode [0xDD, 0xE5] = .ok (.pushXY .ix, [])
    ∧ decode [0xFD, 0xE3] = .ok (.exIndSpXY .iy, [])
    ∧ decode [0xDD, 0xE9] = .ok (.jpIndXY .ix, [])
    ∧ decode [0xFD, 0xF9] = .ok (.ldSpXY .iy, [])
    ∧ decode [0xDD, 0xCB] = .ok (.prefixXYCB .ix, [])
    ∧ decode [0xFD, 0xCB, 0x85, 0x06] = .ok (.rlcIndXY .iy 0x85, [])
    ∧ decode [0xDD, 0xCB, 0x85, 0x03] = .ok (.rlcIndXYR .ix 0x85 .e, [])
    ∧ decode [0xFD, 0xCB, 0x85, 0x0E] = .ok (.rrcIndXY .iy 0x85, [])
    ∧ decode [0xDD, 0xCB, 0x85, 0x0B] = .ok (.rrcIndXYR .ix 0x85 .e, [])
    ∧ decode [0xFD, 0xCB, 0x85, 0x16] = .ok (.rlIndXY .iy 0x85, [])
    ∧ decode [0xDD, 0xCB, 0x85, 0x13] = .ok (.rlIndXYR .ix 0x85 .e, [])
    ∧ decode [0xFD, 0xCB, 0x85, 0x1E] = .ok (.rrIndXY .iy 0x85, []) := by
  and_intros <;> rfl

theorem test_decode_rows_205 :
    decode [0xDD, 0xCB, 0x85, 0x1B] = .ok (.rrIndXYR .ix 0x85 .e, [])
    ∧ decode [0xFD, 0xCB, 0x85, 0x26] = .ok (.slaIndXY .iy 0x85, [])
    ∧ decode [0xDD, 0xCB, 0x85, 0x23] = .ok (.slaIndXYR .ix 0x85 .e, [])
    ∧ decode [0xFD, 0xCB, 0x85, 0x2E] = .ok (.sraIndXY .iy 0x85, [])
    ∧ decode [0xDD, 0xCB, 0x85, 0x2B] = .ok (.sraIndXYR .ix 0x85 .e, [])
    ∧ decode [0xFD, 0xCB, 0x85, 0x36] = .ok (.sllIndXY .iy 0x85, [])
    ∧ decode [0xDD, 0xCB, 0x85, 0x33] = .ok (.sllIndXYR .ix 0x85 .e, [])
    ∧ decode [0xFD, 0xCB, 0x85, 0x3E] = .ok (.srlIndXY .iy 0x85, [])
    ∧ decode [0xDD, 0xCB, 0x85, 0x3B] = .ok (.srlIndXYR .ix 0x85 .e, [])
    ∧ decode [0xFD, 0xCB, 0x85, 0x76] = .ok (.bitIndXY 6 .iy 0x85, [])
    ∧ decode [0xDD, 0xCB, 0x85, 0x73] = .ok (.bitIndXYAlias 6 .ix 0x85 .e, [])
    ∧ decode [0xFD, 0xCB, 0x85, 0xA6] = .ok (.resIndXY 4 .iy 0x85, []) := by
  and_intros <;> rfl

theorem test_decode_rows_217 :
    decode [0xDD, 0xCB, 0x85, 0x83] = .ok (.resIndXYR 0 .ix 0x85 .e, [])
    ∧ decode [0xFD, 0xCB, 0x85, 0xD6] = .ok (.setIndXY 2 .iy 0x85, [])
    ∧ decode [0xDD, 0xCB, 0x85, 0xD3] = .ok (.setIndXYR 2 .ix 0x85 .e, [])
    ∧ decode [0xED, 0x77] = .ok (.unassignedED 0x77, [])
    ∧ decode [0xFD, 0xEB] = .ok (.unassignedXY .iy 0xEB, []) := by
  and_intros <;> rfl

theorem test_decode_truncated : decode [0xDD, 0x36, 0x01] = .error .truncated ∧ decode [] = .error .noBytes := by
  and_intros <;> rfl

theorem test_decode_rest : decode [0x3E, 0x42, 0xC9] = .ok (.ldRN .a 0x42, [0xC9]) := rfl

theorem test_decodeTableWord : decodeTableWord 8 0x87 = some (.addAR .a) ∧ decodeTableWord 8 0x21 = some (.ldRpNn .hl 0) := by
  decide +kernel

/-! ## Steps -/

/-- A launch: a register file, bytes placed from PC upward, and other bytes. -/
def launch (g : RegFile) (bytes : List Byte) (more : List (Word × Byte)) : State :=
  more.foldl (fun s p => s.pokeMemory p.1 p.2) ({ State.reset with regs := g }.pokeBytes g.pc bytes)

/-- One step answers a next state that passes the check. -/
def passes (s : State) (check : State → Bool) : Bool :=
  match step s with
  | .next t => check t
  | .fault _ => false
  | .refused _ => false

/-- The vectors E1, E2, E3, E7, E10 of spec/95_test_vectors.md. -/
theorem test_vectors_E :
    passes (launch (RegFile.zero) [0x3E, 0x42] [])
      (fun t => t.regs.af == 0x4200 && t.regs.pc == 0x0002 && t.units == 7) = true
    ∧ passes (launch ({ RegFile.zero with af := 0x5AFF }) [0xAF] [])
      (fun t => t.regs.af == 0x0044 && t.regs.pc == 0x0001 && t.units == 4) = true
    ∧ passes (launch ({ RegFile.zero with af := 0x7F00 }) [0x3C] [])
      (fun t => t.regs.af == 0x8094 && t.regs.pc == 0x0001 && t.units == 4) = true
    ∧ passes ({ launch ({ RegFile.zero with sp := 0x8000, i := 0x40, iff1 := true, iff2 := true, im := .im2 }) [] [(0x40FF, 0x00), (0x4100, 0x80)] with schedule := [.requestMaskable] })
      (fun t => t.regs.sp == 0x7FFE && t.regs.pc == 0x8000 && t.regs.memptr == 0x8000 && t.regs.iff1 == false && t.regs.iff2 == false && t.byteAt 0x7FFF == 0x00 && t.byteAt 0x7FFE == 0x00 && t.units == 19) = true
    ∧ passes (launch ({ RegFile.zero with af := 0xFF00, bc := 0x0200 }) [0x80] [])
      (fun t => t.regs.af == 0x0111 && t.regs.pc == 0x0001 && t.units == 4) = true := by
  decide +kernel

/-- The vectors V41.1, V41.4, V41.5, V41.7, V41.8, V41.9, V41.10, V41.11, V41.12, V41.14, V41.15, V41.16, V41.17, V41.18 of spec/95_test_vectors.md. -/
theorem test_vectors_V41 :
    passes (launch ({ RegFile.zero with af := 0x5AFF }) [0x7F] [])
      (fun t => t.regs.pc == 0x0001 && t.units == 4) = true
    ∧ passes (launch ({ RegFile.zero with hl := 0x1234 }) [0x66] [(0x1234, 0xAB)])
      (fun t => t.regs.hl == 0xAB34 && t.regs.pc == 0x0001 && t.units == 7) = true
    ∧ passes (launch ({ RegFile.zero with ix := 0x0010 }) [0xDD, 0x66, 0x80] [(0xFF90, 0x3C)])
      (fun t => t.regs.hl == 0x3C00 && t.regs.pc == 0x0003 && t.regs.memptr == 0xFF90 && t.units == 19) = true
    ∧ passes (launch ({ RegFile.zero with hl := 0x1234 }) [0x74] [])
      (fun t => t.regs.pc == 0x0001 && t.byteAt 0x1234 == 0x12 && t.units == 7) = true
    ∧ passes (launch ({ RegFile.zero with hl := 0xFFFF }) [0x36, 0x99] [])
      (fun t => t.regs.pc == 0x0002 && t.byteAt 0xFFFF == 0x99 && t.units == 10) = true
    ∧ passes (launch (RegFile.zero) [0xDD, 0x36, 0xFF, 0x77] [])
      (fun t => t.regs.pc == 0x0004 && t.regs.memptr == 0xFFFF && t.byteAt 0xFFFF == 0x77 && t.units == 19) = true
    ∧ passes (launch ({ RegFile.zero with iy := 0x1234 }) [0xFD, 0x2E, 0x55] [])
      (fun t => t.regs.iy == 0x1255 && t.regs.pc == 0x0003 && t.units == 11) = true
    ∧ passes (launch ({ RegFile.zero with ix := 0xABCD }) [0xDD, 0x44] [])
      (fun t => t.regs.bc == 0xAB00 && t.regs.pc == 0x0002 && t.units == 8) = true
    ∧ passes (launch ({ RegFile.zero with af := 0x0100, ix := 0xABCD }) [0xDD, 0x6F] [])
      (fun t => t.regs.ix == 0xAB01 && t.regs.pc == 0x0002 && t.units == 8) = true
    ∧ passes (launch ({ RegFile.zero with bc := 0xFFFF, memptr := 0x1111 }) [0x0A] [(0xFFFF, 0x42)])
      (fun t => t.regs.af == 0x4200 && t.regs.pc == 0x0001 && t.regs.memptr == 0x0000 && t.units == 7) = true
    ∧ passes (launch ({ RegFile.zero with af := 0x9C00, de := 0x20FF }) [0x12] [])
      (fun t => t.regs.pc == 0x0001 && t.regs.memptr == 0x9C00 && t.byteAt 0x20FF == 0x9C && t.units == 7) = true
    ∧ passes (launch ({ RegFile.zero with memptr := 0x1111 }) [0x3A, 0xFF, 0xFF] [(0xFFFF, 0x07)])
      (fun t => t.regs.af == 0x0700 && t.regs.pc == 0x0003 && t.regs.memptr == 0x0000 && t.units == 13) = true
    ∧ passes (launch ({ RegFile.zero with af := 0xEE00 }) [0x32, 0xFF, 0x10] [])
      (fun t => t.regs.pc == 0x0003 && t.regs.memptr == 0xEE00 && t.byteAt 0x10FF == 0xEE && t.units == 13) = true
    ∧ passes (launch ({ RegFile.zero with af := 0x5A00, iy := 0x4000 }) [0xFD, 0x77, 0x01] [])
      (fun t => t.regs.pc == 0x0003 && t.regs.memptr == 0x4001 && t.byteAt 0x4001 == 0x5A && t.units == 19) = true := by
  decide +kernel

/-- The vectors V42.1, V42.2, V42.3, V42.4, V42.5, V42.6, V42.9 of spec/95_test_vectors.md. -/
theorem test_vectors_V42 :
    passes (launch (RegFile.zero) [0x31, 0xFF, 0xFF] [])
      (fun t => t.regs.sp == 0xFFFF && t.regs.pc == 0x0003 && t.units == 10) = true
    ∧ passes (launch (RegFile.zero) [0x2A, 0xFF, 0xFF] [(0x0000, 0x2A), (0xFFFF, 0x34)])
      (fun t => t.regs.hl == 0x2A34 && t.regs.pc == 0x0003 && t.units == 16) = true
    ∧ passes (launch (RegFile.zero) [0xED, 0x6B, 0x00, 0x50] [(0x5000, 0xEF), (0x5001, 0xBE)])
      (fun t => t.regs.hl == 0xBEEF && t.regs.pc == 0x0004 && t.regs.memptr == 0x5001 && t.units == 20) = true
    ∧ passes (launch ({ RegFile.zero with sp := 0x1234 }) [0xED, 0x73, 0x00, 0x50] [])
      (fun t => t.regs.pc == 0x0004 && t.regs.memptr == 0x5001 && t.byteAt 0x5000 == 0x34 && t.byteAt 0x5001 == 0x12 && t.units == 20) = true
    ∧ passes (launch ({ RegFile.zero with af := 0x12D7 }) [0xF5] [])
      (fun t => t.regs.sp == 0xFFFE && t.regs.pc == 0x0001 && t.byteAt 0xFFFF == 0x12 && t.byteAt 0xFFFE == 0xD7 && t.units == 11) = true
    ∧ passes (launch ({ RegFile.zero with sp := 0xFFFF }) [0xC1] [(0x0000, 0xC1), (0xFFFF, 0x34)])
      (fun t => t.regs.bc == 0xC134 && t.regs.sp == 0x0001 && t.regs.pc == 0x0001 && t.units == 10) = true
    ∧ passes (launch ({ RegFile.zero with sp := 0x1234 }) [0xF9] [])
      (fun t => t.regs.sp == 0x0000 && t.regs.pc == 0x0001 && t.units == 6) = true := by
  decide +kernel

/-- The vectors V43.2, V43.3, V43.4, V43.6, V43.7, V43.10, V43.11 of spec/95_test_vectors.md. -/
theorem test_vectors_V43 :
    passes (launch ({ RegFile.zero with bc := 0x1111, de := 0x2222, hl := 0x3333, bcAlt := 0xAAAA, deAlt := 0xBBBB, hlAlt := 0xCCCC }) [0xD9] [])
      (fun t => t.regs.bc == 0xAAAA && t.regs.de == 0xBBBB && t.regs.hl == 0xCCCC && t.regs.pc == 0x0001 && t.regs.bcAlt == 0x1111 && t.regs.deAlt == 0x2222 && t.regs.hlAlt == 0x3333 && t.units == 4) = true
    ∧ passes (launch ({ RegFile.zero with hl := 0x1234, sp := 0xFFFF }) [0xE3] [(0x0000, 0xE3), (0xFFFF, 0x78)])
      (fun t => t.regs.hl == 0xE378 && t.regs.pc == 0x0001 && t.regs.memptr == 0xE378 && t.byteAt 0x0000 == 0x12 && t.byteAt 0xFFFF == 0x34 && t.units == 19) = true
    ∧ passes (launch ({ RegFile.zero with af := 0x00C1, de := 0x5000, hl := 0x4000 }) [0xED, 0xA0] [(0x4000, 0x22)])
      (fun t => t.regs.af == 0x00E5 && t.regs.bc == 0xFFFF && t.regs.de == 0x5001 && t.regs.hl == 0x4001 && t.regs.pc == 0x0002 && t.byteAt 0x5000 == 0x22 && t.units == 16) = true
    ∧ passes (launch ({ RegFile.zero with de := 0x5000, hl := 0x4000 }) [0xED, 0xB0] [])
      (fun t => t.regs.af == 0x0004 && t.regs.bc == 0xFFFF && t.regs.de == 0x5001 && t.regs.hl == 0x4001 && t.regs.memptr == 0x0001 && t.byteAt 0x5000 == 0x00 && t.units == 21) = true
    ∧ passes (launch ({ RegFile.zero with af := 0x0500, bc := 0x0001, hl := 0x4000 }) [0xED, 0xA1] [(0x4000, 0x05)])
      (fun t => t.regs.af == 0x0542 && t.regs.bc == 0x0000 && t.regs.hl == 0x4001 && t.regs.pc == 0x0002 && t.regs.memptr == 0x0001 && t.units == 16) = true
    ∧ passes (launch ({ RegFile.zero with af := 0x1000, bc := 0x0002, hl := 0x4000 }) [0xED, 0xB9] [(0x4000, 0x10)])
      (fun t => t.regs.af == 0x1046 && t.regs.bc == 0x0001 && t.regs.hl == 0x3FFF && t.regs.pc == 0x0002 && t.regs.memptr == 0xFFFF && t.units == 16) = true
    ∧ passes (launch ({ RegFile.zero with bc := 0x0002, de := 0xFFFF }) [0xED, 0xB8] [(0x0000, 0xED)])
      (fun t => t.regs.af == 0x000C && t.regs.bc == 0x0001 && t.regs.de == 0xFFFE && t.regs.hl == 0xFFFF && t.regs.memptr == 0x0001 && t.byteAt 0xFFFF == 0xED && t.units == 21) = true := by
  decide +kernel

/-- The vectors V44.1, V44.3, V44.5, V44.7, V44.8, V44.10, V44.11, V44.14, V44.16, V44.17, V44.19 of spec/95_test_vectors.md. -/
theorem test_vectors_V44 :
    passes (launch ({ RegFile.zero with af := 0x8000 }) [0x87] [])
      (fun t => t.regs.af == 0x0045 && t.regs.pc == 0x0001 && t.units == 4) = true
    ∧ passes (launch ({ RegFile.zero with af := 0xFF01 }) [0x8F] [])
      (fun t => t.regs.af == 0xFFB9 && t.regs.pc == 0x0001 && t.units == 4) = true
    ∧ passes (launch ({ RegFile.zero with af := 0x3300 }) [0x97] [])
      (fun t => t.regs.af == 0x0042 && t.regs.pc == 0x0001 && t.units == 4) = true
    ∧ passes (launch ({ RegFile.zero with af := 0x4201 }) [0x9F] [])
      (fun t => t.regs.af == 0xFFBB && t.regs.pc == 0x0001 && t.units == 4) = true
    ∧ passes (launch ({ RegFile.zero with af := 0xAA00, bc := 0x5500 }) [0xA0] [])
      (fun t => t.regs.af == 0x0054 && t.regs.pc == 0x0001 && t.units == 4) = true
    ∧ passes (launch ({ RegFile.zero with af := 0x00FF }) [0xB1] [])
      (fun t => t.regs.af == 0x0044 && t.regs.pc == 0x0001 && t.units == 4) = true
    ∧ passes (launch ({ RegFile.zero with af := 0x2800 }) [0xBF] [])
      (fun t => t.regs.af == 0x286A && t.regs.pc == 0x0001 && t.units == 4) = true
    ∧ passes (launch ({ RegFile.zero with af := 0x0001 }) [0x0D] [])
      (fun t => t.regs.af == 0x00BB && t.regs.bc == 0x00FF && t.regs.pc == 0x0001 && t.units == 4) = true
    ∧ passes (launch ({ RegFile.zero with hl := 0x6000 }) [0x34] [(0x6000, 0x7F)])
      (fun t => t.regs.af == 0x0094 && t.regs.pc == 0x0001 && t.byteAt 0x6000 == 0x80 && t.units == 11) = true
    ∧ passes (launch ({ RegFile.zero with af := 0x0100, ix := 0x7F00 }) [0xDD, 0x84] [])
      (fun t => t.regs.af == 0x8094 && t.regs.pc == 0x0002 && t.units == 8) = true
    ∧ passes (launch ({ RegFile.zero with af := 0x0001, ix := 0x5000 }) [0xDD, 0x34, 0x00] [(0x5000, 0x0F)])
      (fun t => t.regs.af == 0x0011 && t.regs.pc == 0x0003 && t.regs.memptr == 0x5000 && t.byteAt 0x5000 == 0x10 && t.units == 23) = true := by
  decide +kernel

/-- The vectors V45.1, V45.5, V45.8, V45.9, V45.10, V45.13, V45.14, V45.15, V45.16, V45.17 of spec/95_test_vectors.md. -/
theorem test_vectors_V45 :
    passes (launch ({ RegFile.zero with af := 0x0F00 }) [0x27] [])
      (fun t => t.regs.af == 0x1510 && t.regs.pc == 0x0001 && t.units == 4) = true
    ∧ passes (launch ({ RegFile.zero with af := 0x8000 }) [0xED, 0x44] [])
      (fun t => t.regs.af == 0x8087 && t.regs.pc == 0x0002 && t.units == 8) = true
    ∧ passes (launch ({ RegFile.zero with af := 0x28C4 }) [0x3F] [])
      (fun t => t.regs.af == 0x28ED && t.regs.pc == 0x0001 && t.units == 4) = true
    ∧ passes (launch ({ RegFile.zero with af := 0x00FE }) [0x37] [])
      (fun t => t.regs.af == 0x00C5 && t.regs.pc == 0x0001 && t.units == 4) = true
    ∧ passes (launch ({ RegFile.zero with af := 0xFF01 }) [0x2F] [])
      (fun t => t.regs.af == 0x0013 && t.regs.pc == 0x0001 && t.units == 4) = true
    ∧ passes (launch ({ RegFile.zero with af := 0x0001, i := 0x80 }) [0xED, 0x57] [])
      (fun t => t.regs.af == 0x8081 && t.regs.pc == 0x0002 && t.units == 9) = true
    ∧ passes (launch ({ RegFile.zero with im := .im2 }) [0xED, 0x4E] [])
      (fun t => t.regs.pc == 0x0002 && t.regs.im == .im0 && t.units == 8) = true
    ∧ passes (launch (RegFile.zero) [0xED, 0x76] [])
      (fun t => t.regs.pc == 0x0002 && t.regs.im == .im1 && t.units == 8) = true
    ∧ passes (launch (RegFile.zero) [0xED, 0x7E] [])
      (fun t => t.regs.pc == 0x0002 && t.regs.im == .im2 && t.units == 8) = true
    ∧ passes (launch ({ RegFile.zero with iff1 := true }) [0xFB] [])
      (fun t => t.regs.pc == 0x0001 && t.regs.iff2 == true && t.units == 4) = true := by
  decide +kernel

/-- The vectors V46.1, V46.3, V46.5, V46.7, V46.8, V46.9 of spec/95_test_vectors.md. -/
theorem test_vectors_V46 :
    passes (launch ({ RegFile.zero with af := 0x00C4, hl := 0x8000 }) [0x29] [])
      (fun t => t.regs.af == 0x00C5 && t.regs.hl == 0x0000 && t.regs.pc == 0x0001 && t.regs.memptr == 0x8001 && t.units == 11) = true
    ∧ passes (launch ({ RegFile.zero with af := 0x0001, hl := 0x4000 }) [0xED, 0x6A] [])
      (fun t => t.regs.af == 0x0084 && t.regs.hl == 0x8001 && t.regs.pc == 0x0002 && t.regs.memptr == 0x4001 && t.units == 15) = true
    ∧ passes (launch ({ RegFile.zero with af := 0x0001, hl := 0x1234 }) [0xED, 0x62] [])
      (fun t => t.regs.af == 0x00BB && t.regs.hl == 0xFFFF && t.regs.pc == 0x0002 && t.regs.memptr == 0x1235 && t.units == 15) = true
    ∧ passes (launch ({ RegFile.zero with iy := 0x4444 }) [0xFD, 0x29] [])
      (fun t => t.regs.af == 0x0008 && t.regs.iy == 0x8888 && t.regs.pc == 0x0002 && t.regs.memptr == 0x4445 && t.units == 15) = true
    ∧ passes (launch ({ RegFile.zero with af := 0x00FF, sp := 0xFFFF }) [0x33] [])
      (fun t => t.regs.sp == 0x0000 && t.regs.pc == 0x0001 && t.units == 6) = true
    ∧ passes (launch (RegFile.zero) [0x0B] [])
      (fun t => t.regs.bc == 0xFFFF && t.regs.pc == 0x0001 && t.units == 6) = true := by
  decide +kernel

/-- The vectors V47.1, V47.2, V47.3, V47.4, V47.5, V47.6, V47.7, V47.8, V47.11, V47.12, V47.13, V47.14, V47.15 of spec/95_test_vectors.md. -/
theorem test_vectors_V47 :
    passes (launch ({ RegFile.zero with af := 0x80C4 }) [0x07] [])
      (fun t => t.regs.af == 0x01C5 && t.regs.pc == 0x0001 && t.units == 4) = true
    ∧ passes (launch ({ RegFile.zero with af := 0x0001 }) [0x1F] [])
      (fun t => t.regs.af == 0x8000 && t.regs.pc == 0x0001 && t.units == 4) = true
    ∧ passes (launch ({ RegFile.zero with af := 0x8000 }) [0xCB, 0x17] [])
      (fun t => t.regs.af == 0x0045 && t.regs.pc == 0x0002 && t.units == 8) = true
    ∧ passes (launch ({ RegFile.zero with af := 0x8000 }) [0xCB, 0x2F] [])
      (fun t => t.regs.af == 0xC084 && t.regs.pc == 0x0002 && t.units == 8) = true
    ∧ passes (launch (RegFile.zero) [0xCB, 0x30] [])
      (fun t => t.regs.bc == 0x0100 && t.regs.pc == 0x0002 && t.units == 8) = true
    ∧ passes (launch ({ RegFile.zero with hl := 0x6000 }) [0xCB, 0x3E] [(0x6000, 0x01)])
      (fun t => t.regs.af == 0x0045 && t.regs.pc == 0x0002 && t.byteAt 0x6000 == 0x00 && t.units == 15) = true
    ∧ passes (launch ({ RegFile.zero with iy := 0x4000 }) [0xFD, 0xCB, 0x02, 0x00] [(0x4002, 0x81)])
      (fun t => t.regs.af == 0x0005 && t.regs.bc == 0x0300 && t.regs.pc == 0x0004 && t.regs.memptr == 0x4002 && t.byteAt 0x4002 == 0x03 && t.units == 23) = true
    ∧ passes (launch ({ RegFile.zero with hl := 0x8000 }) [0xCB, 0x7C] [])
      (fun t => t.regs.af == 0x0090 && t.regs.pc == 0x0002 && t.units == 8) = true
    ∧ passes (launch ({ RegFile.zero with ix := 0x0800 }) [0xDD, 0xCB, 0x00, 0x41] [(0x0800, 0x00)])
      (fun t => t.regs.af == 0x005C && t.regs.pc == 0x0004 && t.regs.memptr == 0x0800 && t.units == 20) = true
    ∧ passes (launch ({ RegFile.zero with ix := 0x4000 }) [0xDD, 0xCB, 0x01, 0x8C] [(0x4001, 0xFF)])
      (fun t => t.regs.hl == 0xFD00 && t.regs.pc == 0x0004 && t.regs.memptr == 0x4001 && t.byteAt 0x4001 == 0xFD && t.units == 23) = true
    ∧ passes (launch ({ RegFile.zero with iy := 0x4000 }) [0xFD, 0xCB, 0x00, 0xFF] [])
      (fun t => t.regs.af == 0x8000 && t.regs.pc == 0x0004 && t.regs.memptr == 0x4000 && t.byteAt 0x4000 == 0x80 && t.units == 23) = true
    ∧ passes (launch ({ RegFile.zero with af := 0x8000, hl := 0x5000 }) [0xED, 0x6F] [(0x5000, 0x00)])
      (fun t => t.regs.af == 0x8080 && t.regs.pc == 0x0002 && t.regs.memptr == 0x5001 && t.byteAt 0x5000 == 0x00 && t.units == 18) = true
    ∧ passes (launch ({ RegFile.zero with af := 0x0001, hl := 0x5000 }) [0xED, 0x67] [(0x5000, 0x00)])
      (fun t => t.regs.af == 0x0045 && t.regs.pc == 0x0002 && t.regs.memptr == 0x5001 && t.byteAt 0x5000 == 0x00 && t.units == 18) = true := by
  decide +kernel

/-- The vectors V48.1, V48.3, V48.4, V48.6, V48.8, V48.9, V48.10, V48.11, V48.12, V48.13 of spec/95_test_vectors.md. -/
theorem test_vectors_V48 :
    passes (launch ({ RegFile.zero with pc := 0xFFFE }) [0x18, 0x00] [])
      (fun t => t.regs.pc == 0x0000 && t.units == 12) = true
    ∧ passes (launch (RegFile.zero) [0x38, 0x10] [])
      (fun t => t.regs.pc == 0x0002 && t.units == 7) = true
    ∧ passes (launch ({ RegFile.zero with bc := 0x0100 }) [0x10, 0xFE] [])
      (fun t => t.regs.bc == 0x0000 && t.regs.pc == 0x0002 && t.units == 8) = true
    ∧ passes (launch (RegFile.zero) [0xE2, 0x00, 0x80] [])
      (fun t => t.regs.pc == 0x8000 && t.regs.memptr == 0x8000 && t.units == 10) = true
    ∧ passes (launch ({ RegFile.zero with sp := 0x8000 }) [0xEC, 0x00, 0x20] [])
      (fun t => t.regs.pc == 0x0003 && t.regs.memptr == 0x2000 && t.units == 10) = true
    ∧ passes (launch ({ RegFile.zero with sp := 0x8000, pc := 0xFFFD }) [0xCD, 0x00, 0x10] [])
      (fun t => t.regs.sp == 0x7FFE && t.regs.pc == 0x1000 && t.regs.memptr == 0x1000 && t.byteAt 0x7FFF == 0x00 && t.byteAt 0x7FFE == 0x00 && t.units == 17) = true
    ∧ passes (launch ({ RegFile.zero with af := 0x0040, sp := 0x8000 }) [0xC0] [])
      (fun t => t.regs.pc == 0x0001 && t.units == 5) = true
    ∧ passes (launch ({ RegFile.zero with sp := 0x0001, pc := 0x1000 }) [0xFF] [])
      (fun t => t.regs.sp == 0xFFFF && t.regs.pc == 0x0038 && t.regs.memptr == 0x0038 && t.byteAt 0x0000 == 0x10 && t.byteAt 0xFFFF == 0x01 && t.units == 11) = true
    ∧ passes (launch ({ RegFile.zero with sp := 0xFFFF }) [0xC9] [(0x0000, 0xC9), (0xFFFF, 0x00)])
      (fun t => t.regs.sp == 0x0001 && t.regs.pc == 0xC900 && t.regs.memptr == 0xC900 && t.units == 10) = true
    ∧ passes (launch ({ RegFile.zero with sp := 0x8000 }) [0xED, 0x55] [(0x8000, 0x00), (0x8001, 0x90)])
      (fun t => t.regs.sp == 0x8002 && t.regs.pc == 0x9000 && t.regs.memptr == 0x9000 && t.units == 14) = true := by
  decide +kernel

/-- The vectors V49.1, V49.2, V49.3, V49.4, V49.5, V49.6, V49.9 of spec/95_test_vectors.md. -/
theorem test_vectors_V49 :
    passes ({ launch ({ RegFile.zero with af := 0xFF00 }) [0xDB, 0xFF] [] with portQueue := [0x12] })
      (fun t => t.regs.af == 0x1200 && t.regs.pc == 0x0002 && t.units == 11) = true
    ∧ passes (launch ({ RegFile.zero with af := 0x8000 }) [0xD3, 0xFF] [])
      (fun t => t.regs.pc == 0x0002 && t.regs.memptr == 0x8000 && t.trace.contains (.portWrite 0x80FF 0x80) && t.units == 11) = true
    ∧ passes ({ launch ({ RegFile.zero with af := 0x0001, bc := 0x00FE }) [0xED, 0x50] [] with portQueue := [0x7F] })
      (fun t => t.regs.af == 0x0029 && t.regs.de == 0x7F00 && t.regs.pc == 0x0002 && t.regs.memptr == 0x00FF && t.units == 12) = true
    ∧ passes ({ launch ({ RegFile.zero with bc := 0x1234 }) [0xED, 0x70] [] with portQueue := [0x00] })
      (fun t => t.regs.af == 0x0044 && t.regs.pc == 0x0002 && t.regs.memptr == 0x1235 && t.units == 12) = true
    ∧ passes (launch ({ RegFile.zero with bc := 0xABCD, hl := 0x005A }) [0xED, 0x69] [])
      (fun t => t.regs.pc == 0x0002 && t.regs.memptr == 0xABCE && t.trace.contains (.portWrite 0xABCD 0x5A) && t.units == 12) = true
    ∧ passes ({ launch ({ RegFile.zero with bc := 0x01FF, hl := 0x6000 }) [0xED, 0xA2] [] with portQueue := [0x01] })
      (fun t => t.regs.af == 0x0040 && t.regs.bc == 0x00FF && t.regs.hl == 0x6001 && t.regs.pc == 0x0002 && t.regs.memptr == 0x0200 && t.byteAt 0x6000 == 0x01 && t.units == 16) = true
    ∧ passes (launch ({ RegFile.zero with hl := 0x6000 }) [0xED, 0xBB] [(0x6000, 0x00)])
      (fun t => t.regs.af == 0x00A8 && t.regs.bc == 0xFF00 && t.regs.hl == 0x5FFF && t.regs.memptr == 0xFEFF && t.trace.contains (.portWrite 0xFF00 0x00) && t.units == 21) = true := by
  decide +kernel

/-- The vectors V60.1, V60.3, V60.4, V60.5, V60.10, V60.11, V60.12, V60.13 of spec/95_test_vectors.md. -/
theorem test_vectors_V60 :
    passes ({ launch ({ RegFile.zero with sp := 0x8000, pc := 0x1234, iff1 := true, iff2 := true, im := .im1 }) [] [] with schedule := [.requestMaskable] })
      (fun t => t.regs.sp == 0x7FFE && t.regs.pc == 0x0038 && t.regs.memptr == 0x0038 && t.regs.iff1 == false && t.regs.iff2 == false && t.byteAt 0x7FFF == 0x12 && t.byteAt 0x7FFE == 0x34 && t.units == 13) = true
    ∧ passes ({ launch ({ RegFile.zero with sp := 0x8000, pc := 0x1234, iff1 := true, iff2 := true }) [] [] with schedule := [.requestMaskable] })
      (fun t => t.regs.sp == 0x7FFE && t.regs.pc == 0x0038 && t.regs.memptr == 0x0038 && t.regs.iff1 == false && t.regs.iff2 == false && t.byteAt 0x7FFF == 0x12 && t.byteAt 0x7FFE == 0x34 && t.units == 13) = true
    ∧ passes ({ launch ({ RegFile.zero with sp := 0x8000, pc := 0x4000, i := 0xFF, iff1 := true, iff2 := true, im := .im2 }) [] [(0x0000, 0x12), (0xFFFF, 0x34)] with schedule := [.requestMaskable] })
      (fun t => t.regs.sp == 0x7FFE && t.regs.pc == 0x1234 && t.regs.memptr == 0x1234 && t.regs.iff1 == false && t.regs.iff2 == false && t.byteAt 0x7FFF == 0x40 && t.byteAt 0x7FFE == 0x00 && t.units == 19) = true
    ∧ passes ({ launch ({ RegFile.zero with sp := 0x8000, pc := 0x1234, iff1 := true, iff2 := true }) [] [] with schedule := [.requestNonMaskable] })
      (fun t => t.regs.sp == 0x7FFE && t.regs.pc == 0x0066 && t.regs.memptr == 0x0066 && t.regs.iff1 == false && t.byteAt 0x7FFF == 0x12 && t.byteAt 0x7FFE == 0x34 && t.units == 13) = true
    ∧ passes (launch (RegFile.zero) [0xED, 0x00] [])
      (fun t => t.regs.pc == 0x0002 && t.trace.contains (.unassigned .ed 0x00 0x0001) && t.units == 8) = true
    ∧ passes (launch (RegFile.zero) [0xED, 0xFF] [])
      (fun t => t.regs.pc == 0x0002 && t.trace.contains (.unassigned .ed 0xFF 0x0001) && t.units == 8) = true
    ∧ passes (launch (RegFile.zero) [0xDD, 0x00] [])
      (fun t => t.regs.pc == 0x0002 && t.trace.contains (.unassigned .dd 0x00 0x0001) && t.units == 8) = true
    ∧ passes ({ launch (RegFile.zero) [0xDD, 0x00] [] with params := { Params.default with ddfdUnassigned := .reexecute } })
      (fun t => t.regs.pc == 0x0002 && t.units == 8) = true := by
  decide +kernel

/-! ## Witnesses: the premises of each statement are met, with each clause at a boundary of its range -/

/-- A state with bytes in memory, a stack at the bottom of memory, and pairs at their ends. -/
def witnessState : State :=
  launch { RegFile.zero with af := 0x8001, bc := 0x0001, de := 0xFFFF, hl := 0x6000, ix := 0x7FFF, iy := 0x0000, sp := 0x0000 }
    [0xED, 0x45] [(0x6000, 0x81), (0xFFFF, 0x12)]

def refusing : State := { witnessState with params := { Params.default with undocAdmit := .refused } }
def strict : State := { witnessState with params := { Params.default with strictUnassigned := true } }
def reexecuting : State := { witnessState with params := { Params.default with ddfdUnassigned := .reexecute } }
def inexact : State := { witnessState with params := { Params.default with memptrExact := false } }
def withRom : State := { witnessState with params := { Params.default with romSet := [{ base := 0x0000, size := 0x4000 }] } }

/-- The state with the host's next call set. -/
def calling (s : State) (c : HostCall) : State := { s with schedule := [c] }

/-- `DecodeOfEncodeIsTheInstruction`: a four-byte instruction at the ends of its fields, and a router row. -/
theorem witness_decode_of_encode :
    Instr.wellFormed (.bitIndXYAlias 7 .iy 0xFF .a) = true ∧ Instr.isRouter (.bitIndXYAlias 7 .iy 0xFF .a) = false
    ∧ Instr.isRouter (.prefixXYCB .iy) = true ∧ Instr.isRouter .prefixED = true := by decide

/-- `EncodeOfDecodeIsTheBytes`: a list that decodes with a rest. -/
theorem witness_encode_of_decode : decode [0xFD, 0xCB, 0xFF, 0xFF, 0x00] = .ok (.setIndXYR 7 .iy 0xFF .a, [0x00]) := rfl

/-- `EveryFourBytesHoldAnInstruction`: the shortest such list. -/
theorem witness_every_four_bytes : 4 ≤ ([0xDD, 0xDD, 0xDD, 0xDD] : List Byte).length := by decide

/-- `StepRunsTheDecodedInstruction`: an empty schedule and one that names the call. -/
theorem witness_step_runs : State.reset.nextCall = .step ∧ (calling witnessState .step).nextCall = .step := by decide

/-- `BytesAtPcAreTheInstruction`: RETN placed at PC. -/
theorem witness_bytes_at_pc :
    Instr.wellFormed .retn = true ∧ Instr.isRouter .retn = false
    ∧ ∀ k, k < Instr.length .retn →
        (encode .retn)[k]? = some (witnessState.byteAt (witnessState.regs.pc + BitVec.ofNat 16 k)) := by decide

/-- `HostResetZeroesTheRegisterFile`: a schedule that begins with reset. -/
theorem witness_host_reset : (calling witnessState .reset).schedule = .reset :: [] := rfl

/-- `HostFieldWrites`: a scheduled write, the greatest values admitted, the least values refused, and the premise of
a change of memory. -/
theorem witness_host_field_writes :
    (calling witnessState (.writeField .iy 0xFFFF)).schedule = .writeField .iy 0xFFFF :: []
    ∧ (0xFFFF : Word).toNat < hostFieldBound .memptr ∧ (0xFF : Byte).toNat < hostFieldBound .ixl
    ∧ true.toNat < hostFieldBound .halted ∧ 2 < hostFieldBound .im
    ∧ hostFieldBound .memptr ≤ 65536 ∧ hostFieldBound .ixl ≤ 256 ∧ hostFieldBound .halted ≤ 2 ∧ hostFieldBound .im ≤ 3
    ∧ withRom.Inv := by
  simp only [State.Inv]; decide

/-- The premise `s.Inv` alone: `StoreRegister`, `ExchangeStackTop`, `IncDecMemory`, `RotateMemory` (its first
premise), `BitResetAndSet`, `NibbleRotates`. -/
theorem witness_inv : witnessState.Inv ∧ withRom.Inv ∧ refusing.Inv ∧ State.reset.Inv := by
  simp only [State.Inv]; decide

/-- `LoadAndStoreAccumulator`: each form, at the ends of memory. -/
theorem witness_accumulator_forms : witnessState.Inv
    ∧ ((Instr.ldAIndBc, witnessState.regs.bc) ∈ [(Instr.ldAIndBc, witnessState.regs.bc), (.ldAIndDe, witnessState.regs.de)]
      ∨ Instr.ldAIndBc = .ldAIndNn witnessState.regs.bc)
    ∧ ((Instr.ldAIndNn 0xFFFF, (0xFFFF : Word)) ∈ [(Instr.ldAIndBc, witnessState.regs.bc), (.ldAIndDe, witnessState.regs.de)]
      ∨ Instr.ldAIndNn 0xFFFF = .ldAIndNn 0xFFFF)
    ∧ ((Instr.ldIndDeA, witnessState.regs.de) ∈ [(Instr.ldIndBcA, witnessState.regs.bc), (.ldIndDeA, witnessState.regs.de)]
      ∨ Instr.ldIndDeA = .ldIndNnA witnessState.regs.de)
    ∧ ((Instr.ldIndNnA 0x0000, (0x0000 : Word)) ∈ [(Instr.ldIndBcA, witnessState.regs.bc), (.ldIndDeA, witnessState.regs.de)]
      ∨ Instr.ldIndNnA 0x0000 = .ldIndNnA 0x0000) := by
  simp only [State.Inv]; decide

/-- The premise `UNDOC_ADMIT = Admit`: `LoadIndexHalves`, and the clauses with it in `AluRegisterAndImmediate`,
`IncDecRegister`, `AccumulatorAdjust`, `CpuControl`, `RotateMemory`, `BitResetAndSet`, `PortInput`, `PortOutput`. -/
theorem witness_admitted : witnessState.params.undocAdmit = .admitted ∧ withRom.params.undocAdmit = .admitted := by decide

/-- `StorePairs`: each of the three forms, the last at nn = 0xFFFF. -/
theorem witness_store_pairs : witnessState.Inv
    ∧ (Instr.ldIndNnHl 0x0000 = .ldIndNnHl 0x0000 ∧ witnessState.regs.hl = witnessState.regs.hl)
    ∧ (∃ p, Instr.ldIndNnRp 0xFFFE .sp = .ldIndNnRp 0xFFFE p ∧ witnessState.regs.sp = witnessState.regs.rp p)
    ∧ (∃ x, Instr.ldIndNnXY 0xFFFF .iy = .ldIndNnXY 0xFFFF x ∧ witnessState.regs.iy = witnessState.regs.xy x) :=
  ⟨witness_inv.1, ⟨rfl, rfl⟩, ⟨.sp, rfl, rfl⟩, ⟨.iy, rfl, rfl⟩⟩

/-- `PushAndPop`: both forms of push, with SP = 0x0000. -/
theorem witness_push_and_pop : witnessState.Inv ∧ witnessState.regs.sp = 0x0000
    ∧ (∃ p, Instr.pushRp2 .af = .pushRp2 p ∧ witnessState.regs.af = witnessState.regs.rp2 p)
    ∧ (∃ x, Instr.pushXY .ix = .pushXY x ∧ witnessState.regs.ix = witnessState.regs.xy x) :=
  ⟨witness_inv.1, rfl, ⟨.af, rfl, rfl⟩, ⟨.ix, rfl, rfl⟩⟩

/-- `PopAfterPushIsInverse`, `RetnUndoesNonMaskableDelivery`: a wrapping stack outside ROM_SET; with ROM_SET below
0x4000 the two bytes at the top of memory still take writes. -/
theorem witness_pop_after_push : witnessState.Inv ∧ withRom.Inv ∧ witnessState.regs.sp = 0x0000
    ∧ witnessState.inRom (witnessState.regs.sp - 1) = false ∧ witnessState.inRom (witnessState.regs.sp - 2) = false
    ∧ withRom.inRom (withRom.regs.sp - 1) = false ∧ withRom.inRom (withRom.regs.sp - 2) = false
    ∧ withRom.inRom 0x3FFF = true ∧ withRom.inRom 0x4000 = false := by
  simp only [State.Inv]; decide

/-- `BlockTransfer`: each form, with BC at 1 (the last pass) and at 0 (the longest run). -/
theorem witness_block_transfer : witnessState.Inv ∧ witnessState.regs.bc = 1 ∧ State.reset.Inv ∧ State.reset.regs.bc = 0
    ∧ ∀ p ∈ [(Instr.ldi, (1 : Word), false), (.lddr, 0xFFFF, true)],
        p ∈ [(Instr.ldi, (1 : Word), false), (.ldd, -1, false), (.ldir, 1, true), (.lddr, -1, true)] := by
  simp only [State.Inv]; decide

/-- `BlockSearch`: the ends of the list of forms, with BC at 1 and at 0. -/
theorem witness_block_search : witnessState.regs.bc = 1 ∧ State.reset.regs.bc = 0
    ∧ ∀ p ∈ [(Instr.cpi, (1 : Word), false), (.cpdr, 0xFFFF, true)],
        p ∈ [(Instr.cpi, (1 : Word), false), (.cpd, -1, false), (.cpir, 1, true), (.cpdr, -1, true)] := by decide

/-- `AccumulatorRotates`: the ends of the list of forms. -/
theorem witness_accumulator_rotates : ∀ p ∈ [(Instr.rlca, RotOp.rlc), (.rra, .rr)],
    p ∈ [(Instr.rlca, RotOp.rlc), (.rrca, .rrc), (.rla, .rl), (.rra, .rr)] := by decide

/-- `RotateRegister`, `RotateMemory`: SLL where it is admitted, and RLC where it is not. -/
theorem witness_rotate : (RotOp.sll = .sll → witnessState.params.undocAdmit = .admitted)
    ∧ (RotOp.rlc = .sll → refusing.params.undocAdmit = .admitted) := by decide

/-- `BitTests`: both settings of MEMPTR_EXACT, and both forms of the last clause. -/
theorem witness_bit_tests : witnessState.params.memptrExact = true ∧ inexact.params.memptrExact = false
    ∧ (Instr.bitIndXY 7 .ix 0x80 = .bitIndXY 7 .ix 0x80)
    ∧ (witnessState.params.undocAdmit = .admitted ∧ ∃ r, Instr.bitIndXYAlias 0 .iy 0x7F .a = .bitIndXYAlias 0 .iy 0x7F r) :=
  ⟨rfl, rfl, rfl, rfl, .a, rfl⟩

/-- `Calls`: each form taken (S of witnessState is 0), RST at its last vector, and the condition that fails. -/
theorem witness_calls : witnessState.Inv ∧ Cond.holds .p witnessState.regs.f = true ∧ Cond.holds .m witnessState.regs.f = false
    ∧ (∃ cc, Instr.callCcNn .p 0xFFFF = .callCcNn cc 0xFFFF ∧ cc.holds witnessState.regs.f = true)
    ∧ (∃ t : BitVec 3, Instr.rst 7 = .rst t ∧ (0x0038 : Word) = BitVec.ofNat 16 (8 * t.toNat)) :=
  ⟨witness_inv.1, by decide, by decide, ⟨.p, rfl, by decide⟩, ⟨7, rfl, by decide⟩⟩

/-- `Returns`: a mirror of RETN where it is admitted. -/
theorem witness_returns : Instr.reti = .reti
    ∧ (witnessState.params.undocAdmit = .admitted ∧ ∃ y, Instr.retnAlias 7 = .retnAlias y) := ⟨rfl, rfl, 7, rfl⟩

/-- `BlockInput`, `BlockOutput`: the ends of the lists of forms, B at 0 (the longest run) and at 1 (the last pass). -/
theorem witness_block_ports : witnessState.Inv ∧ witnessState.regs.view .b = 0
    ∧ ({ witnessState with regs := { witnessState.regs with bc := 0x0100 } } : State).regs.view .b = 1
    ∧ (∀ p ∈ [(Instr.ini, true, false), (.indr, false, true)],
        p ∈ [(Instr.ini, true, false), (.ind, false, false), (.inir, true, true), (.indr, false, true)])
    ∧ (∀ p ∈ [(Instr.outi, true, false), (.otdr, false, true)],
        p ∈ [(Instr.outi, true, false), (.outd, false, false), (.otir, true, true), (.otdr, false, true)]) := by
  simp only [State.Inv]; decide

/-- `UnassignedOpcodes`: the three forms, and both settings of STRICT_UNASSIGNED. -/
theorem witness_unassigned :
    (Instr.unassignedED 0x00 = .unassignedED 0x00 ∧ Table.ed = .ed)
    ∧ witnessState.params.ddfdUnassigned = .softNop ∧ witnessState.params.strictUnassigned = false
    ∧ (Instr.unassignedXY .iy 0xFF = .unassignedXY .iy 0xFF ∧ Table.fd = .fd)
    ∧ strict.params.ddfdUnassigned = .softNop ∧ strict.params.strictUnassigned = true := by decide

/-- A memory that holds 0xDD at every address from `n` on. -/
def leadIns (n m : Nat) : Memory := (List.range' n m).map fun a => (a, 0xDD)

theorem leadIns_read (n m a : Nat) (h : n ≤ a) (h' : a < n + m) : Memory.read (leadIns n m) a = 0xDD := by
  induction m generalizing n with
  | zero => omega
  | succ m ih =>
    show (if a < n then _ else if a = n then _ else Memory.read (leadIns (n + 1) m) a) = _
    rw [if_neg (by omega)]
    split
    · rfl
    · exact ih (n + 1) (by omega) (by omega)

/-- A state whose memory is one lead-in after another. -/
def allLeadIns : State := { reexecuting with mem := leadIns 0 65536 }

/-- `ReexecuteDispatchesTheByte`: a byte that is no lead-in in memory, a chain of two entries (DD DD before ED 45),
and a memory of lead-ins alone. -/
theorem witness_reexecute : reexecuting.params.ddfdUnassigned = .reexecute
    ∧ reexecuting.params.undocAdmit = .admitted ∧ reexecuting.params.strictUnassigned = false
    ∧ (∃ a, reexecuting.byteAt a ≠ 0xDD ∧ reexecuting.byteAt a ≠ 0xFD)
    ∧ reexecuting.decodeAfter [0xDD] = .unassignedXY .ix 0xED ∧ reexecuting.decodeAfter [0x00] = .nop
    ∧ allLeadIns.params.ddfdUnassigned = .reexecute
    ∧ (∀ a, allLeadIns.byteAt a = 0xDD ∨ allLeadIns.byteAt a = 0xFD) :=
  ⟨rfl, rfl, rfl, ⟨0x0000, by decide, by decide⟩, by decide +kernel, by decide +kernel, rfl,
    fun a => .inl (leadIns_read 0 65536 a.toNat (Nat.zero_le _) (by have := a.isLt; omega))⟩

/-- `RouterRowsRunWhatTheyIntroduce`: the defaults, and the ends of the list of rows. -/
theorem witness_router_rows : witnessState.params.undocAdmit = .admitted ∧ witnessState.params.ddfdUnassigned = .softNop
    ∧ witnessState.params.strictUnassigned = false
    ∧ ∀ p ∈ [(Instr.prefixCB, [(0xCB : Byte)]), (.prefixXYCB .iy, [0xFD, 0xCB])],
        p ∈ [(Instr.prefixCB, [(0xCB : Byte)]), (.prefixED, [0xED]), (.prefixDD, [0xDD]), (.prefixFD, [0xFD]),
          (.prefixXYCB .ix, [0xDD, 0xCB]), (.prefixXYCB .iy, [0xFD, 0xCB])] := by decide

/-- `UndocumentedRefused`: an undocumented instruction and a documented one. -/
theorem witness_undocumented : refusing.params.undocAdmit = .refused
    ∧ Instr.isRouter (.sllR .b) = false ∧ Instr.undocumented (.sllR .b) = true
    ∧ Instr.isRouter (.srlR .b) = false ∧ Instr.undocumented (.srlR .b) = false
    ∧ (∀ x b, Instr.sllR .b ≠ .unassignedXY x b) ∧ (∀ x b, Instr.srlR .b ≠ .unassignedXY x b) :=
  ⟨rfl, rfl, rfl, rfl, rfl, nofun, nofun⟩

/-- A state where a maskable request is due. -/
def enabled : State := { witnessState with regs := { witnessState.regs with iff1 := true, iff2 := true, im := .im2, halted := true } }

/-- A state right after EI with EI_DELAY = true. -/
def shadowed : State := { enabled with eiLast := true, params := { Params.default with eiDelay := true } }

/-- `MaskableRequestIgnored`: IFF1 = 0, and the shadow of EI with IFF1 = 1. -/
theorem witness_maskable_ignored :
    (calling witnessState .requestMaskable).schedule = .requestMaskable :: []
    ∧ (calling witnessState .requestMaskable).regs.iff1 = false
    ∧ (calling shadowed .requestMaskable).regs.iff1 = true
    ∧ ((calling shadowed .requestMaskable).params.eiDelay = true ∧ (calling shadowed .requestMaskable).eiLast = true) := by
  decide

/-- `NonMaskableDelivery`: halted in the shadow of EI, and neither. -/
theorem witness_non_maskable :
    (calling shadowed .requestNonMaskable).Inv ∧ (calling shadowed .requestNonMaskable).schedule = .requestNonMaskable :: []
    ∧ (calling shadowed .requestNonMaskable).regs.halted = true ∧ (calling witnessState .requestNonMaskable).Inv
    ∧ (calling witnessState .requestNonMaskable).regs.halted = false := by
  simp only [State.Inv]; decide

/-- `MaskableDelivery`: EI_DELAY = false in mode 2, EI_DELAY = true outside the shadow, and mode 0. -/
theorem witness_maskable_delivery :
    (calling enabled .requestMaskable).Inv ∧ (calling enabled .requestMaskable).schedule = .requestMaskable :: []
    ∧ enabled.regs.iff1 = true ∧ enabled.params.eiDelay = false ∧ enabled.regs.im = .im2
    ∧ ({ shadowed with eiLast := false } : State).eiLast = false ∧ shadowed.regs.iff1 = true
    ∧ ({ enabled with regs := { enabled.regs with im := .im0 } } : State).regs.iff1 = true := by
  simp only [State.Inv]; decide

/-- `StepKeepsTheInvariant`, `TheTraceOnlyGrows`: a host call that answers a next state, and an instruction. -/
theorem witness_step_answers : witnessState.Inv
    ∧ step (calling witnessState (.pokeMemory 0xFFFF 0x00)) = .next (witnessState.pokeMemory 0xFFFF 0x00)
    ∧ ∃ t, step witnessState = .next t :=
  ⟨witness_inv.1, rfl, _, rfl⟩

/-- `StepsNeverStopUnderTheDefaults`: the defaults with an empty schedule, and with the greatest host write. -/
theorem witness_never_stop : witnessState.params.undocAdmit = .admitted ∧ witnessState.params.strictUnassigned = false
    ∧ witnessState.params.ddfdUnassigned = .softNop
    ∧ (∀ fld v, witnessState.nextCall = .writeField fld v → v < hostFieldBound fld)
    ∧ (∀ fld v, (calling witnessState (.writeField .im 2)).nextCall = .writeField fld v → v < hostFieldBound fld) := by
  refine ⟨rfl, rfl, rfl, fun fld v h => ?_, fun fld v h => ?_⟩
  · have e : witnessState.nextCall = .step := rfl
    rw [e] at h
    cases h
  · cases h
    decide

/-- `StepsChargeTheTablesUnits`: RETN (14 units) and an unassigned DD entry under SoftNop. -/
theorem witness_charges : witnessState.nextCall = .step ∧ (∃ t, step witnessState = .next t)
    ∧ (∀ x b, witnessState.decodeAfter [] = .unassignedXY x b → witnessState.params.ddfdUnassigned = .softNop) :=
  ⟨rfl, ⟨_, rfl⟩, fun _ _ _ => rfl⟩

/-- `OnlyTheirWritersChangeTheSpecialRegisters`: each writer does change its register somewhere. -/
theorem witness_writers : Instr.isRouter .ldIA = false
    ∧ (∀ x b, Instr.ldIA = .unassignedXY x b → witnessState.params.ddfdUnassigned = .softNop)
    ∧ (∃ t, exec .ldIA witnessState = .next t ∧ t.regs.i ≠ witnessState.regs.i)
    ∧ (∃ t, exec .ldRA witnessState = .next t ∧ t.regs.r7 ≠ witnessState.regs.r7)
    ∧ (∃ t, exec .im2 witnessState = .next t ∧ t.regs.im ≠ witnessState.regs.im)
    ∧ (∃ t, exec .ei witnessState = .next t ∧ t.regs.iff1 ≠ witnessState.regs.iff1)
    ∧ (∃ t, exec .halt witnessState = .next t ∧ t.regs.halted ≠ witnessState.regs.halted)
    ∧ (∃ t, exec .exAfAf witnessState = .next t ∧ t.regs.afAlt ≠ witnessState.regs.afAlt)
    ∧ (∃ t, exec .exx witnessState = .next t ∧ t.regs.hlAlt ≠ witnessState.regs.hlAlt)
    ∧ (∃ t, exec (.incXY .ix) witnessState = .next t ∧ t.regs.ix ≠ witnessState.regs.ix)
    ∧ (∃ t, exec (.decXYL .iy) witnessState = .next t ∧ t.regs.iy ≠ witnessState.regs.iy) :=
  ⟨rfl, nofun, ⟨_, rfl, by decide⟩, ⟨_, rfl, by decide⟩, ⟨_, rfl, by decide⟩, ⟨_, rfl, by decide⟩, ⟨_, rfl, by decide⟩,
    ⟨_, rfl, by decide⟩, ⟨_, rfl, by decide⟩, ⟨_, rfl, by decide⟩, ⟨_, rfl, by decide⟩⟩

/-- A program runs as the first instruction after reset: HALT placed by `withFetchWord`. -/
theorem test_withFetchWord : passes (State.reset.withFetchWord 8 0x76) (fun t => t.regs.halted && t.regs.pc == 0x0000) = true := by
  decide +kernel

/-- Under `Reexecute` the byte after the discarded DD runs: DD 3C is INC A (R471). -/
theorem test_reexecute_inc_a : passes
    { launch RegFile.zero [0xDD, 0x3C] [] with params := { Params.default with ddfdUnassigned := .reexecute } }
    (fun t => t.regs.pc == 0x0002 && t.regs.af == 0x0100 && t.units == 8) = true := by
  decide +kernel

/-- Strict: the fault carries the table, the byte and its address (R470). -/
theorem test_strict_fault : step { launch RegFile.zero [0xED, 0x00] [] with params := strict.params }
    = .fault (.unassigned .ed 0x00 0x0001) := rfl

/-- `UNDOC_ADMIT = Refuse`: SLL is refused (R137). -/
theorem test_undocumented_refused : step { launch RegFile.zero [0xCB, 0x37] [] with params := refusing.params }
    = .refused .undocumented := rfl

/-- V60.14: DD FD 21 34 12 under `Reexecute`, where the last lead-in wins (R138, R471). -/
theorem test_reexecute_chain : passes
    { launch RegFile.zero [0xDD, 0xFD, 0x21, 0x34, 0x12] [] with params := reexecuting.params }
    (fun t => t.regs.iy == 0x1234 && t.regs.pc == 0x0005 && t.regs.r == 3 && t.units == 18) = true := by
  decide +kernel

/-- Whether a run has ended within `n` calls of the host. -/
def ended (s : State) (e : RunEnd) (n : Nat) : Bool := (s.finalWithin e n).isSome

/-- R516: the step that executes HALT ends a run, and a step that reaches END does. -/
theorem test_run_ends :
    ended (launch RegFile.zero [0x00, 0x76] []) .halted 2 = true ∧ ended (launch RegFile.zero [0x00, 0x76] []) .halted 1 = false
    ∧ ended (launch RegFile.zero [0x18, 0x10] []) (.address 0x0012) 1 = true := by
  decide +kernel

/-- R516: the launch, a host write of halted or PC, a delivery and a reset that land at the end do not end a run. -/
theorem test_run_ends_after_a_step :
    ended (launch { RegFile.zero with halted := true } [0x76] []) .halted 0 = false
    ∧ ended (calling State.reset (.writeField .halted 1)) .halted 1 = false
    ∧ ended (calling State.reset (.writeField .pc 0x1234)) (.address 0x1234) 1 = false
    ∧ ended (calling State.reset .requestNonMaskable) (.address 0x0066) 1 = false
    ∧ ended (calling State.reset .reset) (.address 0x0000) 1 = false := by
  decide +kernel

end Sys2Proof.Tests
end

section
/-!
The step answers a next state under the default policies (00_scope.md R10, 30_encoding.md R135, R137,
60_exceptions.md R470, R471). Three lemmas say how each class of instructions answers: the undocumented rows ask
UNDOC_ADMIT, the unassigned rows take the soft path, and every other row that is no router row has a next state.
-/

namespace Sys2Proof

/-- The policies of R10 under which no instruction faults or is refused. -/
structure Params.Lenient (p : Params) : Prop where
  admitted : p.undocAdmit = .admitted
  notStrict : p.strictUnassigned = false
  soft : p.ddfdUnassigned = .softNop

/-- The defaults of R10 are such policies. -/
theorem Params.default_lenient : Params.default.Lenient := ⟨rfl, rfl, rfl⟩

namespace Machine

/-- `UNDOC_ADMIT` is all that an undocumented row's answer turns on (R137). -/
theorem exec_undocumented {i : Instr} (h : i.undocumented = true) (s : State) :
    ∃ t, exec i s = s.ifAdmitted (.next t) := by
  cases i
  all_goals first | exact Bool.noConfusion h | exact ⟨_, rfl⟩

/-- The soft path of R470: the diagnostic alone. -/
theorem softNop_notStrict {s : State} (h : s.params.strictUnassigned = false) (tb : Table) (b : Byte) :
    softNop tb b s = .next (s.log (.unassigned tb b (s.regs.pc - 1))) := by
  rw [softNop, h]; rfl

/-- Under `SoftNop` no lead-in is discarded: the entry takes the soft path (R471). -/
theorem unassignedIndexed_soft {s : State} (h : s.params.ddfdUnassigned = .softNop)
    (again : List Byte → State → Result) (x : Index) (b : Byte) :
    unassignedIndexed again x b s = softNop x.table b s := by
  rw [unassignedIndexed, h]

/-- `BIT b,(HL)` answers whether or not `MEMPTR_EXACT` is set (R189). -/
theorem execBitIndHl_answers (b : BitVec 3) (s : State) : ∃ t, execBitIndHl b s = .next t := by
  unfold execBitIndHl
  split <;> exact ⟨_, rfl⟩

/-- A row that is neither undocumented nor a router row answers a next state where unassigned rows are soft. -/
theorem exec_documented_answers {i : Instr} {s : State} (hp : s.params.Lenient) (hr : i.isRouter = false)
    (hu : i.undocumented = false) : ∃ t, exec i s = .next t := by
  cases i
  case unassignedED b => exact ⟨_, softNop_notStrict hp.notStrict .ed b⟩
  case unassignedXY x b =>
    exact ⟨_, (unassignedIndexed_soft hp.soft _ x b).trans (softNop_notStrict hp.notStrict x.table b)⟩
  case bitIndHl b => exact execBitIndHl_answers b s
  all_goals first | exact Bool.noConfusion hr | exact Bool.noConfusion hu | exact ⟨_, rfl⟩

/-- Under the lenient policies only a router row can fail to answer. -/
theorem exec_answers {i : Instr} {s : State} (hp : s.params.Lenient) (hr : i.isRouter = false) :
    ∃ t, exec i s = .next t := by
  cases hu : i.undocumented with
  | false => exact exec_documented_answers hp hr hu
  | true =>
    obtain ⟨t, ht⟩ := exec_undocumented hu s
    exact ⟨t, ht.trans (State.ifAdmitted_admitted hp.admitted _)⟩

/-- `step()` answers whatever bytes stand at PC: the decoder never yields a router row (R131, R135). -/
theorem cpuStep_answers {s : State} (hp : s.params.Lenient) : ∃ t, cpuStep s = .next t :=
  exec_answers ((State.fetchAfter_params _ _ _).symm ▸ hp) (decodeHead_not_router _)

/-- A call of the host answers where `step()` does, a write of a value outside its field's type apart (R47). -/
theorem hostCall_answers {cpu : State → Result} {c : HostCall} {s : State} (hcpu : ∃ t, cpu s = .next t)
    (hw : ∀ fld v, c = .writeField fld v → v < hostFieldBound fld) : ∃ t, hostCall cpu c s = .next t := by
  cases c with
  | step => exact hcpu
  | writeField fld v => exact ⟨_, if_pos (hw fld v rfl)⟩
  | requestMaskable | requestNonMaskable | reset | pokeMemory => exact ⟨_, rfl⟩

/-- Settles O57: every class of instructions answers under the three policies, and every host call but a write out
of range does. -/
theorem stepsNeverStopUnderTheDefaults : Obligations.StepsNeverStopUnderTheDefaults := by
  intro s hadm hstrict hsoft hw
  have hp : s.dropCall.params.Lenient := ⟨hadm, hstrict, hsoft⟩
  exact hostCall_answers (cpuStep_answers hp) hw

end Machine

end Sys2Proof
end

section
/-!
Which instructions change the registers with few writers: the shadow bank (10_state.md R33), the index registers
(R34), I, R and R7 (R42, R43), IM (R44), the flip-flops (R45) and halted (R46). The working registers are masked
out of the register file, and so is the index register whose lead-in byte the encoding begins with; what is left
is the same after every instruction that is not in the short list of writers.
-/

namespace Sys2Proof

/-- The rows that write the shadow bank, I, R, R7, IM, a flip-flop or halted (R33, R42 to R46). -/
def Instr.writesSpecial : Instr → Bool
  | .exAfAf | .exx | .halt | .di | .ei | .reti | .retn | .retnAlias _ => true
  | .im0 | .im0Alias _ | .im1 | .im1Alias | .im2 | .im2Alias | .ldIA | .ldRA => true
  | _ => false

namespace Machine

/-- The register file with the working registers masked, and with the index register masked that an encoding
beginning with the byte `lead` can write (R34, R131). -/
def RegFile.special (lead : Option Byte) (g : RegFile) : RegFile :=
  { g with
    af := 0, bc := 0, de := 0, hl := 0, sp := 0, pc := 0, memptr := 0
    ix := if lead = some 0xDD then 0 else g.ix
    iy := if lead = some 0xFD then 0 else g.iy }

section
variable (lead : Option Byte) (s : State)

theorem State.setReg8_special (r : Reg8) (v : Byte) :
    (s.setReg8 r v).regs.special lead = s.regs.special lead := by cases r <;> rfl

theorem State.setPair_special (p : Pair) (v : Word) :
    (s.setPair p v).regs.special lead = s.regs.special lead := by cases p <;> rfl

theorem State.setStackPair_special (p : StackPair) (v : Word) :
    (s.setStackPair p v).regs.special lead = s.regs.special lead := by cases p <;> rfl

/-- A write of the index register whose lead-in byte comes first (R34, R131). -/
theorem State.setIndex_special (x : Index) (v : Word) :
    (s.setIndex x v).regs.special (some x.leadIn) = s.regs.special (some x.leadIn) := by cases x <;> rfl

/-- `ADD XY,rp` writes the index register and F (R353). -/
theorem State.arithIndex_special (x : Index) (p : Word × Byte) :
    (s.arithIndex x p).regs.special (some x.leadIn) = s.regs.special (some x.leadIn) := by cases x <;> rfl

theorem State.push16_special (w : Word) : (s.push16 w).regs.special lead = s.regs.special lead := by
  rw [State.push16_regs]; rfl

theorem State.callTo_special (a : Word) : (s.callTo a).regs.special lead = s.regs.special lead := by
  rw [State.callTo_regs]; rfl

theorem State.pop16_special : s.pop16.regs.special lead = s.regs.special lead := by
  rw [State.pop16_regs]; rfl

theorem State.returnPop_special : s.returnPop.regs.special lead = s.regs.special lead := by
  rw [State.returnPop_regs]; rfl

theorem State.blockLoadRepeat_special (d : Direction) :
    (s.blockLoadRepeat d).regs.special lead = s.regs.special lead := by
  rw [State.blockLoadRepeat_eq]; split <;> rfl

theorem State.blockCompareRepeat_special (d : Direction) :
    (s.blockCompareRepeat d).regs.special lead = s.regs.special lead := by
  rw [State.blockCompareRepeat_eq]; split <;> rfl

theorem State.repeatIo_special : s.repeatIo.regs.special lead = s.regs.special lead := by
  unfold State.repeatIo; split <;> rfl

end

section
variable {lead : Option Byte} {s t x : State}

theorem special_of_next (h : x.regs.special lead = s.regs.special lead) (e : (.next x : Result) = .next t) :
    t.regs.special lead = s.regs.special lead := by cases e; exact h

theorem special_of_admitted (h : x.regs.special lead = s.regs.special lead) (e : s.ifAdmitted (.next x) = .next t) :
    t.regs.special lead = s.regs.special lead := special_of_next h (State.ifAdmitted_next e)

/-- The soft path of R470 changes no register. -/
theorem softNop_regs {tb : Table} {b : Byte} (e : softNop tb b s = .next t) : t.regs = s.regs := by
  unfold softNop at e
  split at e
  · cases e
  · cases e; rfl

/-- `BIT b,(HL)` writes F alone, whether or not `MEMPTR_EXACT` is set (R388, R189). -/
theorem execBitIndHl_special {b : BitVec 3} (e : execBitIndHl b s = .next t) :
    t.regs.special lead = s.regs.special lead := by
  unfold execBitIndHl at e
  split at e <;> exact special_of_next (by rfl) e

/-- A condition chooses between two states, both with the special registers of `s`. -/
theorem special_ite {c : Prop} [Decidable c] {y : State} (hx : x.regs.special lead = s.regs.special lead)
    (hy : y.regs.special lead = s.regs.special lead) :
    (if c then x else y).regs.special lead = s.regs.special lead := by split <;> assumption

end

/-- Every row that is neither a router row nor a listed writer keeps the special registers, the index register
behind its own lead-in byte apart. The rows that write 8-bit registers, pairs, index registers or the stack, and
those with a condition, are named; the others write fixed working registers or none. -/
theorem exec_keeps_special {i : Instr} {s t : State} (hr : i.isRouter = false) (hw : i.writesSpecial = false)
    (hx : ∀ x b, i = .unassignedXY x b → s.params.ddfdUnassigned = .softNop) (h : exec i s = .next t) :
    t.regs.special (encode i).head? = s.regs.special (encode i).head? := by
  cases i
  case unassignedED b => rw [softNop_regs h]
  case unassignedXY x b =>
    rw [← runWith_exec, runWith_unassignedXY, unassignedIndexed_soft (hx x b rfl)] at h
    rw [softNop_regs h]
  case bitIndHl b => exact execBitIndHl_special h
  all_goals first
    | exact Bool.noConfusion hr
    | exact Bool.noConfusion hw
    | refine special_of_next ?_ h
    | refine special_of_admitted ?_ h
  case incR | decR | ldRN | ldRR | ldRIndHl | ldRXYH | ldRXYL | ldRIndXY | rlcR | rrcR | rlR | rrR | slaR | sraR
      | sllR | srlR | resR | setR | inRIndC | rlcIndXYR | rrcIndXYR | rlIndXYR | rrIndXYR | slaIndXYR | sraIndXYR
      | sllIndXYR | srlIndXYR | resIndXYR | setIndXYR => exact State.setReg8_special _ _ _ _
  case ldRpNn | ldRpIndNn | incRp | decRp => exact State.setPair_special _ _ _ _
  case ldXYNn | ldXYIndNn | incXY | decXY | incXYH | incXYL | decXYH | decXYL | ldXYHN | ldXYLN | ldXYHR | ldXYLR =>
    exact State.setIndex_special _ _ _
  case addXYRp => exact State.arithIndex_special _ _ _
  case exIndSpXY x => cases x <;> rfl
  case popRp2 => exact (State.setStackPair_special _ _ _ _).trans (State.pop16_special _ _)
  case popXY => exact (State.setIndex_special _ _ _).trans (State.pop16_special _ _)
  case pushRp2 | pushXY => exact State.push16_special _ _ _
  case callNn | rst => exact State.callTo_special _ _ _
  case ret => exact State.returnPop_special _ _
  case djnz | jrCc | jpCcNn => exact special_ite rfl rfl
  case callCcNn => exact special_ite (State.callTo_special _ _ _) rfl
  case retCc => rw [State.tick_regs]; exact special_ite (State.returnPop_special _ _) rfl
  case ldir | lddr => exact State.blockLoadRepeat_special _ _ _
  case cpir | cpdr => exact State.blockCompareRepeat_special _ _ _
  case inir | indr | otir | otdr => exact State.repeatIo_special _ _
  all_goals rfl

/-- What equal masks say, field by field. -/
theorem RegFile.special_fields {lead : Option Byte} {g g' : RegFile} (h : g'.special lead = g.special lead) :
    (g'.i = g.i ∧ g'.r = g.r ∧ g'.r7 = g.r7 ∧ g'.im = g.im)
    ∧ (g'.iff1 = g.iff1 ∧ g'.iff2 = g.iff2 ∧ g'.halted = g.halted)
    ∧ (g'.afAlt = g.afAlt ∧ g'.bcAlt = g.bcAlt ∧ g'.deAlt = g.deAlt ∧ g'.hlAlt = g.hlAlt)
    ∧ (lead ≠ some 0xDD → g'.ix = g.ix) ∧ (lead ≠ some 0xFD → g'.iy = g.iy) := by
  simp only [RegFile.special, RegFile.mk.injEq, true_and] at h
  obtain ⟨haf, hbc, hde, hhl, hix, hiy, hi, hr, hr7, hiff1, hiff2, him, hhalted⟩ := h
  exact ⟨⟨hi, hr, hr7, him⟩, ⟨hiff1, hiff2, hhalted⟩, ⟨haf, hbc, hde, hhl⟩,
    fun hl => by rwa [if_neg hl, if_neg hl] at hix, fun hl => by rwa [if_neg hl, if_neg hl] at hiy⟩

/-- Settles O59: a row that is no listed writer keeps every special register, and each listed writer is run. -/
theorem onlyTheirWritersChangeTheSpecialRegisters : Obligations.OnlyTheirWritersChangeTheSpecialRegisters := by
  intro s t i hr hx h
  obtain ⟨-, -, hparams, hsched⟩ := exec_evolves h
  rw [hparams, hsched]
  cases hw : i.writesSpecial with
  | false =>
    obtain ⟨⟨hi, hr, hr7, him⟩, ⟨hiff1, hiff2, hhalted⟩, ⟨haf, hbc, hde, hhl⟩, hix, hiy⟩ :=
      RegFile.special_fields (exec_keeps_special hr hw hx h)
    exact ⟨absurd hi, (·.elim (absurd hr) (absurd hr7)), absurd him, absurd hiff1, absurd hiff2, absurd hhalted,
      absurd haf, (·.elim (absurd hbc) (·.elim (absurd hde) (absurd hhl))), not_imp_comm.mp hix, not_imp_comm.mp hiy,
      rfl, rfl⟩
  | true =>
    cases i
    case exAfAf | exx | halt | di | ei | im0 | im1 | im2 | ldIA | ldRA => cases h; simp
    case im0Alias | im1Alias | im2Alias => cases State.ifAdmitted_next h; simp
    case reti | retn => cases h; simp [State.returnFromInterrupt_regs]
    case retnAlias => cases State.ifAdmitted_next h; simp [State.returnFromInterrupt_regs]
    all_goals exact Bool.noConfusion hw

end Machine
end Sys2Proof
end

section
/-!
Decoding an encoding gives the instruction back, whatever bytes follow (30_encoding.md R126, R131, R132), and so
the instruction at PC is the one whose encoding stands there (R36).
-/

namespace Sys2Proof

open Machine

theorem encode_length (i : Instr) : (encode i).length = i.length := by cases i <;> rfl

/-! ## The window of a list by how many of its bytes are known -/

section
variable (l : List Byte) (a b c d : Byte)

theorem decodeHead_one : decodeHead ([a] ++ l) = decodeWindow a (l.getD 0 0) (l.getD 1 0) (l.getD 2 0) := rfl
theorem decodeHead_two : decodeHead ([a, b] ++ l) = decodeWindow a b (l.getD 0 0) (l.getD 1 0) := rfl
theorem decodeHead_three : decodeHead ([a, b, c] ++ l) = decodeWindow a b c (l.getD 0 0) := rfl
theorem decodeHead_four : decodeHead ([a, b, c, d] ++ l) = decodeWindow a b c d := rfl

end

/-! ## The router by its lead-in bytes (R131) -/

theorem decodeWindow_leadIn (x : Index) (a b c : Byte) : decodeWindow x.leadIn a b c = decodeIndexed x a b c := by
  cases x <;> rfl

theorem decodeWindow_cb (a b c : Byte) : decodeWindow 0xCB a b c = decodeCB a := rfl

theorem decodeIndexed_cb (x : Index) (d b : Byte) : decodeIndexed x 0xCB d b = decodeXYCB x d b := rfl

/-! ## The fields of an opcode byte put together from its fields (R125) -/

section
variable (x : BitVec 2) (y z : BitVec 3)

theorem opX_fields : opX (field x 6 ||| field y 3 ||| field z 0) = x := by revert x y z; decide +kernel
theorem opY_fields : opY (field x 6 ||| field y 3 ||| field z 0) = y := by revert x y z; decide +kernel
theorem opZ_fields : opZ (field x 6 ||| field y 3 ||| field z 0) = z := by revert x y z; decide +kernel

theorem field_cases : y = 0 ∨ y = 1 ∨ y = 2 ∨ y = 3 ∨ y = 4 ∨ y = 5 ∨ y = 6 ∨ y = 7 := by
  revert y; decide

end

/-! ## The bytes with no assigned behaviour (R136) -/

/-- An ED byte that R142 does not assign. -/
theorem decodeED_unassigned {b : Byte} (h : edAssigned b = false) (n1 n2 : Byte) :
    decodeED b n1 n2 = .unassignedED b := by
  have h1 : ∀ b, edAssigned b = false → opX b = 1 → opZ b = 7 ∧ decodeED7 b = .unassignedED b := by decide +kernel
  have h2 : ∀ b, edAssigned b = false → opX b = 2 → decodeED2 b = .unassignedED b := by decide +kernel
  unfold decodeED
  split
  · next hx =>
    obtain ⟨hz, h7⟩ := h1 b h hx
    rw [decodeED1, hz]
    exact h7
  · next hx => exact h2 b h hx
  · rfl

/-- A DD or FD byte of the load quarter that R145 does not assign: neither field selects a half or `(XY+d)`, or the
byte is 0x76. -/
theorem decodeXY1_unassigned {b : Byte} (h : xyAssigned b = false) (hx : opX b = 1) (x : Index) (n : Byte) :
    decodeXY1 x b n = .unassignedXY x b := by
  have key : ∀ b, xyAssigned b = false → opX b = 1 →
      opY b ≠ 4 ∧ opY b ≠ 5 ∧ (opY b = 6 → opZ b = 6) ∧ (opY b ≠ 6 → opZ b ≠ 4 ∧ opZ b ≠ 5 ∧ opZ b ≠ 6) := by
    decide +kernel
  obtain ⟨h4, h5, h6, hz⟩ := key b h hx
  unfold decodeXY1
  split
  · contradiction
  · contradiction
  · next hy => rw [h6 hy]; rfl
  · next hy =>
    obtain ⟨z4, z5, z6⟩ := hz hy
    split
    · contradiction
    · contradiction
    · contradiction
    · rfl

/-- A DD or FD byte of the accumulator quarter that R145 does not assign: its operand is no half and no `(XY+d)`. -/
theorem decodeXY2_unassigned {b : Byte} (h : xyAssigned b = false) (hx : opX b = 2) (x : Index) (n : Byte) :
    decodeXY2 x b n = .unassignedXY x b := by
  have key : ∀ b, xyAssigned b = false → opX b = 2 → opZ b ≠ 4 ∧ opZ b ≠ 5 ∧ opZ b ≠ 6 := by decide +kernel
  obtain ⟨z4, z5, z6⟩ := key b h hx
  unfold decodeXY2
  split
  · contradiction
  · contradiction
  · contradiction
  · rfl

/-- A DD or FD byte that R145 does not assign. -/
theorem decodeIndexed_unassigned {b : Byte} (h : xyAssigned b = false) (x : Index) (n1 n2 : Byte) :
    decodeIndexed x b n1 n2 = .unassignedXY x b := by
  have ne : ∀ c, xyAssigned c = true → b ≠ c := fun c hc e => by rw [e, hc] at h; cases h
  rw [decodeIndexed, if_neg (ne 0xCB (by decide)), decodeXY]
  split
  · exact decodeXY1_unassigned h ‹_› x n1
  · exact decodeXY2_unassigned h ‹_› x n1
  · simp (disch := decide) only [decodeXYRest, ne, if_false]

/-! ## The round trip -/

/-- Decoding an encoding with any bytes after it. An operand that selects an opcode byte is tried value by value, the
bit number and the register of the bit rows by their fields, and a word is its two bytes. -/
theorem decodeHead_encode {i : Instr} (hw : i.wellFormed = true) (hr : i.isRouter = false) (l : List Byte) :
    decodeHead (encode i ++ l) = i := by
  cases i
  case prefixCB | prefixDD | prefixFD | prefixED | prefixXYCB => exact Bool.noConfusion hr
  all_goals simp only [encode, decodeHead_one, decodeHead_two, decodeHead_three, decodeHead_four, decodeWindow_leadIn,
    decodeWindow_cb, decodeIndexed_cb]
  case ldRpNn p nn => cases p <;> exact congrArg (Instr.ldRpNn _) (word_hi_lo nn)
  case jpCcNn cc nn => cases cc <;> exact congrArg (Instr.jpCcNn _) (word_hi_lo nn)
  case callCcNn cc nn => cases cc <;> exact congrArg (Instr.callCcNn _) (word_hi_lo nn)
  case ldIndNnRp nn p => cases p <;> exact congrArg (Instr.ldIndNnRp · _) (word_hi_lo nn)
  case ldRpIndNn p nn => cases p <;> exact congrArg (Instr.ldRpIndNn _) (word_hi_lo nn)
  case ldIndNnHl | ldHlIndNn | ldIndNnA | ldAIndNn | jpNn | callNn | ldXYNn | ldXYIndNn =>
    exact congrArg _ (word_hi_lo _)
  case ldIndNnXY nn x => exact congrArg (Instr.ldIndNnXY · x) (word_hi_lo nn)
  case incRp p | decRp p | addHlRp p | popRp2 p | pushRp2 p | sbcHlRp p | adcHlRp p | addXYRp _ p => cases p <;> rfl
  case jrCc cc _ | retCc cc => cases cc <;> rfl
  case ldRR r q => cases r <;> cases q <;> rfl
  case incR r | decR r | ldRN r _ | ldRIndHl r | ldIndHlR r | addAR r | adcAR r | subR r | sbcAR r | andR r | xorR r
      | orR r | cpR r | rlcR r | rrcR r | rlR r | rrR r | slaR r | sraR r | sllR r | srlR r | inRIndC r | outIndCR r
      | ldRIndXY r _ _ | rlcIndXYR _ _ r | rrcIndXYR _ _ r | rlIndXYR _ _ r | rrIndXYR _ _ r | slaIndXYR _ _ r
      | sraIndXYR _ _ r | sllIndXYR _ _ r | srlIndXYR _ _ r => cases r <;> rfl
  case ldXYHR _ r | ldXYLR _ r => cases r <;> rfl
  case ldRXYH r _ | ldRXYL r _ | ldIndXYR _ _ r => cases r <;> first | rfl | exact Bool.noConfusion hw
  case rst y | bitIndHl y | resIndHl y | setIndHl y | bitIndXY y _ _ | resIndXY y _ _ | setIndXY y _ _ =>
    rcases field_cases y with rfl | rfl | rfl | rfl | rfl | rfl | rfl | rfl <;> rfl
  case negAlias y | retnAlias y | im0Alias y =>
    rcases field_cases y with rfl | rfl | rfl | rfl | rfl | rfl | rfl | rfl <;>
      first | rfl | exact Bool.noConfusion hw
  case bitR | resR | setR | bitIndXYAlias | resIndXYR | setIndXYR =>
    simp only [show (0x40 : Byte) = field (1 : BitVec 2) 6 from rfl,
      show (0x80 : Byte) = field (2 : BitVec 2) 6 from rfl, show (0xC0 : Byte) = field (3 : BitVec 2) 6 from rfl,
      decodeCB, decodeXYCB, opX_fields, opY_fields, opZ_fields, Reg8.ofCode_code]
    rfl
  case unassignedED b => exact decodeED_unassigned ((Bool.not_eq_true' _).mp hw) _ _
  case unassignedXY x b => exact decodeIndexed_unassigned ((Bool.not_eq_true' _).mp hw) _ _ _
  all_goals rfl

/-! ## The instruction at PC -/

/-- A list whose first bytes are an encoding is that encoding and the bytes after it. -/
theorem eq_encode_append {i : Instr} {w : List Byte} (h : ∀ k, k < i.length → (encode i)[k]? = w[k]?) :
    w = encode i ++ w.drop i.length := by
  have ht : w.take i.length = encode i := by
    refine List.ext_getElem? fun k => ?_
    by_cases hk : k < i.length
    · rw [List.getElem?_take_of_lt hk, h k hk]
    · have he : (encode i).length ≤ k := by rw [encode_length]; exact not_lt.mp hk
      rw [List.getElem?_eq_none ((List.length_take_le _ _).trans (not_lt.mp hk)), List.getElem?_eq_none he]
  rw [← ht, List.take_append_drop]

theorem Machine.State.bytesAtPc_getElem? (s : State) {k : Nat} (hk : k < 4) :
    s.bytesAtPc[k]? = some (s.byteAt (s.regs.pc + BitVec.ofNat 16 k)) := by
  interval_cases k <;> simp [State.bytesAtPc]

/-- Settles O8: the bytes at PC are the encoding and the bytes after it, and those decode to the instruction. -/
theorem bytesAtPcAreTheInstruction : Obligations.BytesAtPcAreTheInstruction := by
  intro s i hw hr h
  have hb : s.bytesAtPc = encode i ++ s.bytesAtPc.drop i.length :=
    eq_encode_append fun k hk => (h k hk).trans (s.bytesAtPc_getElem? (hk.trans_le i.length_bounds.2)).symm
  show decodeHead s.bytesAtPc = i
  rw [hb, decodeHead_encode hw hr]

end Sys2Proof
end

section
/-!
The host's calls on the register file and on memory (10_state.md R47, R50, 45_cpu_control.md R326).
-/

namespace Sys2Proof.Machine

/-- A call that stands first on the schedule is made, and taken off it (R513). -/
theorem step_of_schedule {s : State} {c : HostCall} {rest : List HostCall} (h : s.schedule = c :: rest) :
    step s = hostCall cpuStep c { s with schedule := rest } := by
  simp only [step, State.nextCall, State.dropCall, h, List.headD_cons, List.tail_cons]

/-- A host write of a value of the field's type: the register file poked, and nothing else (R47). -/
theorem writeField_leaves {s : State} {fld : HostField} {v : Nat} {g : RegFile}
    (h : v < hostFieldBound fld ∧ s.regs.poke fld v = g) :
    Leaves (hostCall cpuStep (.writeField fld v) s) s (· = g) [] [] :=
  ⟨{ s with regs := s.regs.poke fld v }, if_pos h.1, h.2, Frame.of_regs _ rfl⟩

/-- A host write of any other value is refused (R47, D26). -/
theorem writeField_refused (s : State) {fld : HostField} {v : Nat} (h : hostFieldBound fld ≤ v) :
    hostCall cpuStep (.writeField fld v) s = .refused (.hostWrite fld v) := if_neg (Nat.not_lt.mpr h)

/-- The bytes after the host has changed one, in `ROM_SET` or not (R326). -/
theorem State.pokeMemory_byteAt {s : State} (h : s.Inv) (a q : Word) (v : Byte) :
    (s.pokeMemory a v).byteAt q = if q = a then v else s.byteAt q := by
  rw [State.byteAt, State.pokeMemory, Memory.read_write h]
  simp only [BitVec.toNat_inj, State.byteAt]

/-- Settles O10: each listed write is in range and pokes the value; the rest by the lemmas above. -/
theorem hostFieldWrites : Obligations.HostFieldWrites := by
  refine ⟨fun s c rest => step_of_schedule, fun s v p hp => writeField_leaves ?_,
    fun s v p hp => writeField_leaves ?_, fun s v p hp => writeField_leaves ?_,
    fun s p hp => writeField_leaves ?_, fun s v h => writeField_refused s h, fun s fld v => writeField_refused s,
    fun s a v h => ⟨s.pokeMemory a v, rfl, rfl, fun q => State.pokeMemory_byteAt h a q v⟩⟩
  · revert p
    simp [hostFieldBound, RegFile.poke, v.isLt]
  · revert p
    simp [hostFieldBound, RegFile.poke, v.isLt, word, hi, lo, RegFile.withAF, RegFile.f, RegFile.view]
  · revert p
    cases v <;> simp [hostFieldBound, RegFile.poke]
  · revert p
    simp [hostFieldBound, RegFile.poke, intModeOf]

/-- Settles O9: the call is made, and each field of the state is read off. -/
theorem hostResetZeroesTheRegisterFile : Obligations.HostResetZeroesTheRegisterFile :=
  ⟨fun s rest h => ⟨State.resetRegisters { s with schedule := rest }, step_of_schedule h,
    rfl, rfl, rfl, rfl, rfl, rfl, rfl, rfl, rfl⟩, rfl⟩

/-- Settles O56. -/
theorem resetHasTheInvariant : Obligations.ResetHasTheInvariant := ⟨State.reset_inv, fun _ => rfl⟩

end Sys2Proof.Machine
end

section
/-!
The fetches (30_encoding.md R121 to R124), the conditions (10_state.md R49), and the loads and exchanges that touch
registers alone (41_load8.md R200 to R209, 43_exchange_block.md R260 to R262, 45_cpu_control.md R329 to R335).
-/

namespace Sys2Proof.Machine

/-- Settles O7: the fetches are those of the format, in order. -/
theorem fetchingAnInstruction : Obligations.FetchingAnInstruction := by
  intro s i
  obtain ⟨hf, hr⟩ := State.fetchBytes_leaves i.format.fetches s
  exact ⟨leaves_next.mpr ⟨hr, hf⟩, State.fetchEvents_units _ _ _⟩

/-- Settles O5: each code names its condition, and the four JR codes are compared one by one. -/
theorem conditionCodesReadF : Obligations.ConditionCodesReadF :=
  ⟨fun _ => ⟨rfl, rfl, rfl, rfl, rfl, rfl, rfl, rfl⟩, by decide⟩

/-- With `UNDOC_ADMIT = Admit` an undocumented row leaves what its effect does (R137). -/
theorem leaves_admitted {s s' t : State} {P : RegFile → Prop} {st : List (Word × Byte)} {ev : List Event}
    (h : s.params.undocAdmit = .admitted) (ht : P t.regs ∧ Frame s' t st ev) :
    Leaves (s.ifAdmitted (.next t)) s' P st ev := by
  rw [State.ifAdmitted_admitted h]
  exact leaves_next.mpr ht

/-- A write of the high half keeps the low half (R32, R34). -/
theorem State.setIndexHigh_sets (s : State) (x : Index) (v : Byte) :
    SetsIndex s.regs (s.setIndexHigh x v).regs x (v ++ (s.regs.xy x).extractLsb' 0 8) :=
  s.indexLow_eq x ▸ s.setIndex_sets x _

/-- A write of the low half keeps the high half (R32, R34). -/
theorem State.setIndexLow_sets (s : State) (x : Index) (v : Byte) :
    SetsIndex s.regs (s.setIndexLow x v).regs x ((s.regs.xy x).extractLsb' 8 8 ++ v) :=
  s.indexHigh_eq x ▸ s.setIndex_sets x _

/-- Settles O15: each row is a write of one half, or of one 8-bit register. -/
theorem loadIndexHalves : Obligations.LoadIndexHalves := by
  intro s h
  refine ⟨fun x n => ⟨?_, ?_⟩, fun r x => ⟨?_, ?_⟩, fun x src => ⟨?_, ?_⟩⟩
  · exact leaves_admitted h ⟨s.setIndexHigh_sets x n, s.setIndex_frame x _⟩
  · exact leaves_admitted h ⟨s.setIndexLow_sets x n, s.setIndex_frame x _⟩
  · exact leaves_admitted h ⟨s.indexHigh_eq x ▸ s.setReg8_sets r _, s.setReg8_frame r _⟩
  · exact leaves_admitted h ⟨s.indexLow_eq x ▸ s.setReg8_sets r _, s.setReg8_frame r _⟩
  · exact leaves_admitted h ⟨s.indexSrc_eq x src ▸ s.setIndexHigh_sets x _, s.setIndex_frame x _⟩
  · exact leaves_admitted h ⟨s.indexSrc_eq x src ▸ s.setIndexLow_sets x _, s.setIndex_frame x _⟩

/-- Settles O11: both rows are a write of one 8-bit register. -/
theorem loadRegister : Obligations.LoadRegister := fun s =>
  ⟨fun dst src => leaves_next.mpr ⟨s.reg8_eq src ▸ s.setReg8_sets dst _, s.setReg8_frame dst _⟩,
    fun r n => leaves_next.mpr ⟨s.setReg8_sets r n, s.setReg8_frame r n⟩⟩

/-- What an effect on the registers alone leaves. -/
theorem leaves_regs (s : State) (g : RegFile) : Leaves (.next { s with regs := g }) s (· = g) [] [] :=
  leaves_next.mpr ⟨rfl, Frame.of_regs g rfl⟩

/-- What an effect on the registers and extra units leave. -/
theorem leaves_regs_tick (s : State) {g g' : RegFile} (h : g = g') (n : Nat) :
    Leaves (.next (State.tick { s with regs := g } (n + 1))) s (· = g') [] [.tick (n + 1)] :=
  leaves_next.mpr ⟨h, (Frame.of_regs g rfl).trans (State.tick_frame _ (n + 1))⟩

/-- Settles O21: the three rows write the swapped register file. -/
theorem exchanges : Obligations.Exchanges := fun s => ⟨leaves_regs s _, leaves_regs s _, leaves_regs s _⟩

/-- The registers after LD A,I and LD A,R, for the byte they load (R330, R335). -/
theorem State.loadAIR_regs (s : State) (v : Byte) : (s.loadAIR v).regs =
    s.regs.withAF v
      (flagByte v.msb (v == 0) (v.getLsbD 5) false (v.getLsbD 3) s.regs.iff2 false (s.regs.f.getLsbD 0)) := by
  rw [State.loadAIR, loadIRFlags_eq]
  rfl

/-- Settles O31: each row writes registers and charges one unit; the byte of LD A,R is R7 over R. -/
theorem interruptAndRefreshRegisters : Obligations.InterruptAndRefreshRegisters := by
  intro s a flags refresh
  refine ⟨leaves_regs_tick s rfl 0, leaves_regs_tick s ?_ 0, leaves_regs_tick s (s.loadAIR_regs _) 0,
    leaves_regs_tick s ((s.loadAIR_regs _).trans ?_) 0⟩
  · have h : s.regA.getLsbD 7 = a.msb := (BitVec.msb_eq_getLsbD_last _).symm
    rw [h]; rfl
  · rw [s.refresh_eq]

end Sys2Proof.Machine
end

section
/-!
What a step of the whole machine keeps (20_memory.md R80, R101, 70_reset_and_hazards.md R503, R511): every call of
the host that answers a next state evolves the state, `step()` by `exec_evolves`.
-/

namespace Sys2Proof.Machine

/-- `step()` clears `eiLast`, fetches and runs an instruction. -/
theorem cpuStep_evolves {s t : State} (h : cpuStep s = .next t) : Evolves s t :=
  (((Evolves.refl s).of_eq (u := { s with eiLast := false }) rfl rfl rfl rfl).fetchAfter _ _).trans (exec_evolves h)

/-- A host write of a register-file field is a change of registers, or refused (R47). -/
theorem State.writeField_evolves {s t : State} {fld : HostField} {v : Nat} (h : s.writeField fld v = .next t) :
    Evolves s t := by
  unfold State.writeField at h
  split at h
  · exact Evolves.of_next ((Evolves.refl s).setRegs _) h
  · cases h

/-- The host changing a byte of memory keeps the canonical form (R326). -/
theorem State.pokeMemory_evolves (s : State) (a : Word) (v : Byte) : Evolves s (s.pokeMemory a v) :=
  ⟨fun h => Memory.write_wf h a v, ⟨[], rfl⟩, rfl, rfl⟩

/-- Every call of the host that answers a next state (R513). -/
theorem hostCall_evolves {c : HostCall} {s t : State} (h : hostCall cpuStep c s = .next t) : Evolves s t := by
  have hs := Evolves.refl s
  cases c with
  | step => exact cpuStep_evolves h
  | requestMaskable => exact Evolves.of_next ((hs.deliver _).ite hs) h
  | requestNonMaskable => exact Evolves.of_next (hs.deliver _) h
  | reset => exact Evolves.of_next (hs.of_eq (u := s.resetRegisters) rfl rfl rfl rfl) h
  | writeField fld v => exact State.writeField_evolves h
  | pokeMemory a v => exact Evolves.of_next (s.pokeMemory_evolves a v) h

/-- Settles O55: taking the call off the schedule keeps the memory, and the call keeps its canonical form. -/
theorem stepKeepsTheInvariant : Obligations.StepKeepsTheInvariant := fun _ _ hs h => (hostCall_evolves h).inv hs

/-- Settles O60: the new events stand before the old trace, so its units are counted too. -/
theorem theTraceOnlyGrows : Obligations.TheTraceOnlyGrows := by
  intro s t h
  obtain ⟨-, ⟨new, htrace⟩, hparams, -⟩ := hostCall_evolves h
  refine ⟨⟨new, htrace⟩, hparams, ?_⟩
  calc s.units ≤ unitsOf new + unitsOf s.trace := Nat.le_add_left _ _
    _ = t.units := by rw [State.units, htrace, unitsOf_append]; rfl

end Sys2Proof.Machine
end

section
/-!
What an instruction charges (20_memory.md R84, 70_reset_and_hazards.md R511, R512). The trace is summed oldest event
first, so that the charges of an instruction are literals added to the old sum, and a row whose accesses do not hang
on a condition computes to the total of its Timing line.
-/

namespace Sys2Proof

/-- What the total of an instruction hangs on: A, F, B, BC and the byte at HL (R512). -/
theorem Instr.units_congr (i : Instr) {s t : Machine.State} (ha : t.regA = s.regA) (hf : t.regF = s.regF)
    (hb : t.regB = s.regB) (hbc : t.regs.bc = s.regs.bc) (hv : t.byteAt t.regs.hl = s.byteAt s.regs.hl) :
    i.units t = i.units s := by
  cases i
  case djnz | jrCc | retCc | callCcNn | ldir | cpir | inir | otir | lddr | cpdr | indr | otdr =>
    simp only [Instr.units, ha, hf, hb, hbc, hv]
  all_goals rfl

namespace Machine

/-- The units of a trace, the oldest event added first. -/
def charged : List Event → Nat
  | [] => 0
  | e :: es => charged es + e.units

theorem charged_eq (es : List Event) : charged es = unitsOf es := by
  induction es with
  | nil => rfl
  | cons e es ih => rw [charged, unitsOf, ih, Nat.add_comm]

/-! ## Operations whose charge does not show by computing -/

section
variable (s : State)

theorem State.tick_charged (n : Nat) : charged (s.tick n).trace = charged s.trace + n := by
  unfold State.tick
  split
  · next h => rw [h]; rfl
  · rfl

theorem State.push16_charged (w : Word) : charged (s.push16 w).trace = charged s.trace + 6 := by
  rw [State.push16_trace]; rfl

theorem State.pop16_charged : charged s.pop16.trace = charged s.trace + 6 := rfl

theorem State.callTo_charged (a : Word) : charged (s.callTo a).trace = charged s.trace + 7 := by
  rw [State.callTo, State.tick_charged, State.setMemptr_trace, State.setPc_trace, State.push16_charged]

theorem State.returnPop_charged : charged s.returnPop.trace = charged s.trace + 6 := by
  rw [State.returnPop, State.setMemptr_trace, State.setPc_trace, State.pop16_charged]

theorem State.returnFromInterrupt_charged : charged s.returnFromInterrupt.trace = charged s.trace + 6 := by
  rw [State.returnFromInterrupt, State.returnPop_charged, State.setIff_trace]

theorem State.swapStack_charged (w : Word) : charged (s.swapStack w).trace = charged s.trace + 12 := by
  rw [State.swapStack, State.busRead16, State.busWrite_trace, State.busWrite_trace]; rfl

theorem State.rewind_charged : charged s.rewind.trace = charged s.trace + 5 := by
  rw [State.rewind, State.tick_charged, State.setPc_trace]

theorem State.blockIn_charged (d : Direction) : charged (s.blockIn d).trace = charged s.trace + 8 := rfl
theorem State.blockOut_charged (d : Direction) : charged (s.blockOut d).trace = charged s.trace + 8 := rfl

end

/-! ## The counts the repeats and DJNZ test -/

/-- A count is 0 after the decrement unless it was 1. -/
theorem sub_one_bne_zero_iff {n : Nat} (w : BitVec n) : (w - 1 != 0) = true ↔ ¬ w = 1 := by
  rw [sub_one_bne_zero, bne_iff_ne]

theorem State.setReg8_b_regB (s : State) (v : Byte) : (s.setReg8 .b v).regB = v := hi_word _ _
theorem State.blockIn_regB (s : State) (d : Direction) : (s.blockIn d).regB = s.regB - 1 := hi_word _ _
theorem State.blockOut_regB (s : State) (d : Direction) : (s.blockOut d).regB = s.regB - 1 := hi_word _ _

/-! ## The next state of an instruction -/

section
variable {s t x y : State} {n m k : Nat}

theorem charged_of_next (hx : charged x.trace + n = charged s.trace + m) (h : (.next x : Result) = .next t) :
    charged t.trace + n = charged s.trace + m := by cases h; exact hx

theorem charged_of_admitted (hx : charged x.trace + n = charged s.trace + m) (h : s.ifAdmitted (.next x) = .next t) :
    charged t.trace + n = charged s.trace + m := charged_of_next hx (State.ifAdmitted_next h)

/-- A condition chooses between two charges. -/
theorem charged_ite {c c' : Prop} [Decidable c] [Decidable c'] (hc : c ↔ c')
    (hx : charged x.trace + n = charged s.trace + m) (hy : charged y.trace + n = charged s.trace + k) :
    charged (if c then x else y).trace + n = charged s.trace + if c' then m else k := by
  by_cases h : c
  · rw [if_pos h, if_pos (hc.mp h), hx]
  · rw [if_neg h, if_neg (mt hc.mpr h), hy]

/-- The rules give the total of the last pass first, the model the rewind first. -/
theorem charged_ite_not {c c' : Prop} [Decidable c] [Decidable c'] (hc : c ↔ ¬ c')
    (hx : charged x.trace + n = charged s.trace + m) (hy : charged y.trace + n = charged s.trace + k) :
    charged (if c then x else y).trace + n = charged s.trace + if c' then k else m := by
  rw [← ite_not c']
  exact charged_ite hc hx hy

/-- The soft path of R470 charges nothing beyond its fetches. -/
theorem softNop_charged {tb : Table} {b : Byte} (h : softNop tb b s = .next t) : charged t.trace = charged s.trace := by
  unfold softNop at h
  split at h <;> cases h
  rfl

/-- `BIT b,(HL)` charges the same whether or not `MEMPTR_EXACT` is set (R388, R189). -/
theorem execBitIndHl_charged {b : BitVec 3} (h : execBitIndHl b s = .next t) : charged t.trace = charged s.trace + 4 := by
  unfold execBitIndHl at h
  split at h <;> (cases h; rfl)

end

/-- The repeating port instructions end when B was 1 (R438, R439, R442, R443). -/
theorem repeatIo_charged {s t : State} {b : Byte} (ht : charged t.trace = charged s.trace + 8) (hb : t.regB = b - 1) :
    charged t.repeatIo.trace + 8 = charged s.trace + if b = 1 then 16 else 21 := by
  refine charged_ite_not (by rw [hb]; exact sub_one_bne_zero_iff b) ?_ ?_
  · rw [State.rewind_charged, ht]
  · rw [ht]

/-- The total of every row that is no router row, its fetches counted on the left. The rows with a condition, those
that use the stack and those that write a register the operand names are listed; the others compute. -/
theorem exec_charged {i : Instr} {s t : State} (hr : i.isRouter = false)
    (hx : ∀ x b, i = .unassignedXY x b → s.params.ddfdUnassigned = .softNop) (h : exec i s = .next t) :
    charged t.trace + i.format.units = charged s.trace + i.units s := by
  cases i
  case unassignedED b => rw [softNop_charged h]; rfl
  case unassignedXY x b =>
    rw [← runWith_exec, runWith_unassignedXY, unassignedIndexed_soft (hx x b rfl)] at h
    rw [softNop_charged h]; rfl
  case bitIndHl b => rw [execBitIndHl_charged h]; rfl
  all_goals first
    | exact Bool.noConfusion hr
    | refine charged_of_next ?_ h
    | refine charged_of_admitted ?_ h
  case jrCc => exact charged_ite .rfl rfl rfl
  case jpCcNn cc _ => cases cc.holds s.regF <;> rfl
  case ret => rw [State.returnPop_charged]; rfl
  case reti | retn | retnAlias => rw [State.returnFromInterrupt_charged]; rfl
  case retCc => rw [State.tick_charged, Nat.add_assoc]; exact charged_ite .rfl (by rw [State.returnPop_charged]; rfl) rfl
  case callCcNn => exact charged_ite .rfl (by rw [State.callTo_charged]; rfl) rfl
  case djnz =>
    exact charged_ite_not (by rw [State.setReg8_b_regB]; exact sub_one_bne_zero_iff _) rfl rfl
  case ldir | lddr => rw [State.blockLoadRepeat_eq]; exact charged_ite_not bne_iff_ne rfl rfl
  case cpir | cpdr =>
    rw [State.blockCompareRepeat_eq]
    refine charged_ite_not ?_ rfl rfl
    rw [Bool.and_eq_true, bne_iff_ne, bne_iff_ne, not_or]; rfl
  case inir | indr => exact repeatIo_charged (State.blockIn_charged _ _) (State.blockIn_regB _ _)
  case otir | otdr => exact repeatIo_charged (State.blockOut_charged _ _) (State.blockOut_regB _ _)
  case callNn | rst => rw [State.callTo_charged]; rfl
  case pushRp2 | pushXY => rw [State.tick_charged, State.push16_charged]; rfl
  case exIndSpHl | exIndSpXY =>
    simp only [State.tick_charged, State.setMemptr_trace, State.setPair_trace, State.setIndex_trace,
      State.swapStack_charged]
    rfl
  case incR | decR | ldRN | ldRR | ldRIndHl | ldRXYH | ldRXYL | rlcR | rrcR | rlR | rrR | slaR | sraR | sllR | srlR
      | resR | setR | inRIndC | rlcIndXYR | rrcIndXYR | rlIndXYR | rrIndXYR | slaIndXYR | sraIndXYR | sllIndXYR
      | srlIndXYR | resIndXYR | setIndXYR => exact congrArg (charged · + _) (State.setReg8_trace _ _ _)
  case ldRIndXY => rw [State.loadIndexed, State.tick_charged, State.loadReg8, State.setReg8_trace]; rfl
  case ldRpNn | ldRpIndNn => exact congrArg (charged · + _) (State.setPair_trace _ _ _)
  case incRp | decRp => rw [State.tick_charged, State.setPair_trace]; rfl
  case popRp2 => exact congrArg (charged · + _) (State.setStackPair_trace _ _ _)
  case incXY | decXY => rw [State.tick_charged, State.setIndex_trace]; rfl
  case ldXYNn | ldXYIndNn | incXYH | incXYL | decXYH | decXYL | ldXYHN | ldXYLN | ldXYHR | ldXYLR | popXY =>
    exact congrArg (charged · + _) (State.setIndex_trace _ _ _)
  case addXYRp x _ => cases x <;> rfl
  all_goals rfl

/-! ## The fetches and the step -/

theorem unitsOf_reverse (es : List Event) : unitsOf es.reverse = unitsOf es := by
  induction es with
  | nil => rfl
  | cons e es ih => rw [List.reverse_cons, unitsOf_append, ih, unitsOf, unitsOf, unitsOf]; omega

/-- Fetching an instruction charges its format's units (R121, R122). -/
theorem State.fetchAfter_units (s : State) (i : Instr) : (s.fetchAfter [] i).units = s.units + i.format.units := by
  obtain ⟨-, htrace, -⟩ := (State.fetchBytes_leaves i.format.fetches s).1
  have hfetch : unitsOf (s.fetchEvents s.regs.pc i.format.fetches) = i.format.units := State.fetchEvents_units _ _ _
  calc (s.fetchAfter [] i).units
      = unitsOf ((s.fetchEvents s.regs.pc i.format.fetches).reverse ++ s.trace) := congrArg unitsOf htrace
    _ = s.units + i.format.units := by rw [unitsOf_append, unitsOf_reverse, hfetch, Nat.add_comm]; rfl

/-- The total of an instruction is decided before its fetches: they change PC and R alone. -/
theorem units_fetchAfter (s : State) (i : Instr) : i.units (s.fetchAfter [] i) = i.units s := by
  obtain ⟨⟨hbytes, -⟩, hregs⟩ := State.fetchBytes_leaves i.format.fetches s
  have hr : (s.fetchAfter [] i).regs = _ := hregs
  refine Instr.units_congr i ?_ ?_ ?_ ?_ ((hbytes _).trans ?_)
  · rw [State.regA, hr]; rfl
  · rw [State.regF, hr]; rfl
  · rw [State.regB, hr]; rfl
  · rw [hr]
  · rw [hr]; rfl

/-- An instruction fetched and run charges its total (R512). -/
theorem exec_fetchAfter_units {i : Instr} {s t : State} (hr : i.isRouter = false)
    (hx : ∀ x b, i = .unassignedXY x b → s.params.ddfdUnassigned = .softNop)
    (h : exec i (s.fetchAfter [] i) = .next t) : t.units = s.units + i.units s := by
  have hexec := exec_charged hr ((State.fetchAfter_params s [] i).symm ▸ hx) h
  rw [charged_eq, charged_eq, units_fetchAfter] at hexec
  refine Nat.add_right_cancel (m := i.format.units) ?_
  calc t.units + i.format.units
      = (s.fetchAfter [] i).units + i.units s := hexec
    _ = s.units + i.units s + i.format.units := by rw [State.fetchAfter_units, Nat.add_right_comm]

/-- Settles O58: the instruction at PC is no router row, and neither the call taken nor `eiLast` enters its total. -/
theorem stepsChargeTheTablesUnits : Obligations.StepsChargeTheTablesUnits := by
  intro s t hc h hx
  rw [step, hc] at h
  have hunits := exec_fetchAfter_units (s := { s.dropCall with eiLast := false }) (decodeHead_not_router _) hx h
  rw [hunits]
  exact congrArg (s.units + ·) (Instr.units_congr _ rfl rfl rfl rfl rfl)

end Machine
end Sys2Proof
end

section
/-!
Loads and stores of memory (41_load8.md R202 to R214, 42_load16_stack.md R232 to R238): one lemma for each shared
shape says what it leaves, and the forms differ in the address and the operand.
-/

namespace Sys2Proof.Machine

/-- Two stores at different addresses in the other order. -/
theorem Frame.swap {s t : State} {a b : Word} {u v : Byte} {ev : List Event} (hab : a ≠ b)
    (h : Frame s t [(a, u), (b, v)] ev) : Frame s t [(b, v), (a, u)] ev := by
  obtain ⟨hb, hrest⟩ := h
  exact ⟨fun c => (hb c).trans (s.afterStores_swap a b u v hab c), hrest⟩

/-! ## 8-bit loads and stores -/

/-- The effective address is XY plus the sign-extended displacement (R88). -/
theorem State.ea_eq (s : State) (x : Index) (d : Byte) : s.ea x d = s.regs.xy x + d.signExtend 16 :=
  congrArg (· + d.signExtend 16) (s.index_eq x)

/-- A byte read into a register (R202). -/
theorem State.loadReg8_leaves (s : State) (r : Reg8) (a : Word) :
    Sets8 s.regs (s.loadReg8 r a).regs r (s.byteAt a) ∧ Frame s (s.loadReg8 r a) [] (s.rd a) :=
  ⟨(s.busRead a).setReg8_sets r _, (s.busRead_frame a).trans (State.setReg8_frame _ r _)⟩

/-- Settles O12: the indexed form loads as the form with HL does, after the address is latched. -/
theorem loadRegisterFromMemory : Obligations.LoadRegisterFromMemory := by
  intro s
  refine ⟨s.ea_eq, fun r => leaves_next.mpr (s.loadReg8_leaves r _), fun r x d => leaves_next.mpr ?_⟩
  obtain ⟨hregs, hframe⟩ := (s.latchEa x d).loadReg8_leaves r (s.ea x d)
  rw [State.loadIndexed, State.tick_regs]
  exact ⟨hregs, ((s.setMemptr_frame _).trans hframe).trans (State.tick_frame _ 5)⟩

/-- A byte stored, and no register written (R204, R205). -/
theorem State.busWrite_leaves {s : State} (h : s.Inv) (a : Word) (v : Byte) :
    Leaves (.next (s.busWrite a v)) s (· = s.regs) [(a, v)] (wr a v) :=
  leaves_next.mpr ⟨rfl, State.busWrite_frame h a v⟩

/-- A byte stored at the effective address, which MEMPTR keeps (R206, R214). -/
theorem State.storeIndexed_leaves {s : State} (h : s.Inv) (x : Index) (d v : Byte) (n : Nat) :
    Leaves (.next (s.storeIndexed x d v (n + 1))) s (· = { s.regs with memptr := s.ea x d }) [(s.ea x d, v)]
      (wr (s.ea x d) v ++ [.tick (n + 1)]) :=
  leaves_next.mpr ⟨rfl, ((s.setMemptr_frame _).trans (State.busWrite_frame (s := s.latchEa x d) h _ v)).trans
    (State.tick_frame _ (n + 1))⟩

/-- Settles O13: each row stores a register or n, at HL or at the effective address. -/
theorem storeRegister : Obligations.StoreRegister := fun s h =>
  ⟨fun r => s.reg8_eq r ▸ State.busWrite_leaves h _ _, fun n => State.busWrite_leaves h _ n,
    fun x d n => State.storeIndexed_leaves h x d n 1,
    fun x d r => s.reg8_eq r ▸ State.storeIndexed_leaves h x d (s.reg8 r) 4,
    fun x d => State.storeIndexed_leaves h x d _ 4, fun x d => State.storeIndexed_leaves h x d _ 4⟩

/-! ## 16-bit loads and stores -/

/-- The reads of a 16-bit load, low byte first, and its MEMPTR (R85). -/
theorem State.loadAt16_frame (s : State) (nn : Word) : Frame s (s.loadAt16 nn) [] (s.rd nn ++ s.rd (nn + 1)) :=
  ((s.busRead_frame nn).trans (State.busRead_frame _ _)).trans (State.setMemptr_frame _ _)

/-- The word at `nn` loaded into a pair (R232, R234). -/
theorem State.loadAt16_setPair_leaves (s : State) (p : Pair) (nn : Word) :
    Leaves (.next ((s.loadAt16 nn).setPair p (s.wordAt nn))) s
      (Sets16 { s.regs with memptr := nn + 1 } · p (s.wordAt nn)) [] (s.rd nn ++ s.rd (nn + 1)) :=
  leaves_next.mpr ⟨(s.loadAt16 nn).setPair_sets p _, (s.loadAt16_frame nn).trans (State.setPair_frame _ p _)⟩

/-- Settles O17: the three forms read the word and write it to a pair or an index register. -/
theorem loadPairsFromMemory : Obligations.LoadPairsFromMemory := fun s nn =>
  ⟨s.loadAt16_setPair_leaves .hl nn, fun p => s.loadAt16_setPair_leaves p nn,
    fun x => leaves_next.mpr ⟨(s.loadAt16 nn).setIndex_sets x (s.wordAt nn),
      (s.loadAt16_frame nn).trans (State.setIndex_frame _ x _)⟩⟩

/-- A 16-bit store, low byte first (R85). -/
theorem State.storeAt16_leaves {s : State} (h : s.Inv) (nn w : Word) :
    Leaves (.next (s.storeAt16 nn w)) s (· = { s.regs with memptr := nn + 1 }) [(nn, lo w), (nn + 1, hi w)]
      (wr nn (lo w) ++ wr (nn + 1) (hi w)) := by
  have hlow := State.busWrite_frame h nn (lo w)
  have hhigh := State.busWrite_frame (State.busWrite_inv h nn (lo w)) (nn + 1) (hi w)
  exact leaves_next.mpr ⟨rfl, ((hlow.trans hhigh).trans (State.setMemptr_frame _ _)).swap (by bv_omega)⟩

/-- Settles O18: the three forms store HL, a pair or an index register. -/
theorem storePairs : Obligations.StorePairs := by
  rintro s h nn i w (⟨rfl, rfl⟩ | ⟨p, rfl, rfl⟩ | ⟨x, rfl, rfl⟩)
  · exact State.storeAt16_leaves h nn s.regs.hl
  · exact s.pair_eq p ▸ State.storeAt16_leaves h nn (s.pair p)
  · exact s.index_eq x ▸ State.storeAt16_leaves h nn (s.index x)

end Sys2Proof.Machine
end

section
/-!
The stack (20_memory.md R92 to R94, 42_load16_stack.md R240 to R243) and the calls and returns that use it
(48_jump_call_return.md R408 to R416).
-/

namespace Sys2Proof.Machine

/-! ## PUSH and POP -/

/-- A push with its extra unit, the stores in the order they are made (R240, R242). -/
theorem State.push16_leaves {s : State} (h : s.Inv) (w : Word) :
    Leaves (.next ((s.push16 w).tick 1)) s (· = { s.regs with sp := s.regs.sp - 2 })
      [(s.regs.sp - 1, hi w), (s.regs.sp - 2, lo w)]
      (wr (s.regs.sp - 1) (hi w) ++ wr (s.regs.sp - 2) (lo w) ++ [.tick 1]) :=
  leaves_next.mpr ⟨(State.tick_regs _ 1).trans (s.push16_regs w),
    (((State.push16_frame h w).swap (by bv_omega)).trans (State.tick_frame _ 1))⟩

/-- Settles O19: a row pushes or pops a pair or an index register. -/
theorem pushAndPop : Obligations.PushAndPop := by
  refine fun s => ⟨?_, fun p => leaves_next.mpr ⟨?_, s.pop16_frame.trans (State.setStackPair_frame _ p _)⟩,
    fun x => leaves_next.mpr ⟨?_, s.pop16_frame.trans (State.setIndex_frame _ x _)⟩⟩
  · rintro h i w (⟨p, rfl, rfl⟩ | ⟨x, rfl, rfl⟩)
    · exact s.stackPair_eq p ▸ State.push16_leaves h (s.stackPair p)
    · exact s.index_eq x ▸ State.push16_leaves h (s.index x)
  · exact s.pop16_regs ▸ s.pop16.setStackPair_sets p s.stackTop
  · exact s.pop16_regs ▸ s.pop16.setIndex_sets x s.stackTop

/-- POP leaves SP two higher, whichever pair it loads (R93). -/
theorem State.setStackPair_sp (s : State) (p : StackPair) (v : Word) : (s.setStackPair p v).regs.sp = s.regs.sp := by
  cases p <;> rfl

/-- The word on the stack after a push, where neither slot is in `ROM_SET` (R94, R101). -/
theorem State.push16_stackTop {s : State} (h : s.Inv) (w : Word) (h1 : s.inRom (s.regs.sp - 1) = false)
    (h2 : s.inRom (s.regs.sp - 2) = false) : (s.push16 w).stackTop = w := by
  obtain ⟨hbytes, -⟩ := State.push16_frame h w
  have e : s.regs.sp - 2 + 1 = s.regs.sp - 1 := by bv_omega
  have hne : s.regs.sp - 1 ≠ s.regs.sp - 2 := by bv_omega
  rw [State.stackTop, State.push16_regs, hbytes, hbytes, e]
  simp only [State.afterStores, h1, h2, hne, and_true, if_true, if_false]
  exact word_hi_lo w

/-- Settles O20: the pop reads the two bytes that the push wrote, and SP comes back mod 65536. -/
theorem popAfterPushIsInverse : Obligations.PopAfterPushIsInverse := by
  refine ⟨fun s p q h => ⟨_, _, rfl, rfl, ?_, fun h1 h2 => ?_⟩, fun s p h => ⟨_, rfl, ?_, ?_⟩⟩
  · rw [State.setStackPair_sp, State.pop16_regs, State.tick_regs, State.push16_regs]
    bv_omega
  · rw [(State.setStackPair_sets _ q _).1]
    exact (State.push16_stackTop h (s.stackPair p) h1 h2).trans (s.stackPair_eq p)
  · rw [State.tick_regs, State.push16_regs, h]; rfl
  · rw [State.tick_trace, State.push16_trace, h, s.stackPair_eq]; rfl

/-! ## Calls and returns -/

/-- A call, the stores in the order they are made (R408, R416). -/
theorem State.callTo_leaves {s : State} (h : s.Inv) (target : Word) :
    Leaves (.next (s.callTo target)) s (· = { s.regs with sp := s.regs.sp - 2, pc := target, memptr := target })
      [(s.regs.sp - 1, hi s.regs.pc), (s.regs.sp - 2, lo s.regs.pc)]
      (wr (s.regs.sp - 1) (hi s.regs.pc) ++ wr (s.regs.sp - 2) (lo s.regs.pc) ++ [.tick 1]) :=
  leaves_next.mpr ⟨s.callTo_regs target, (State.callTo_frame h target).swap (by bv_omega)⟩

/-- The target of `RST t` (R416). -/
theorem restartTarget_eq (t : BitVec 3) : restartTarget t = BitVec.ofNat 16 (8 * t.toNat) := by
  revert t; decide

/-- Where its condition holds, `CALL cc,nn` is `CALL nn` (R409). -/
theorem exec_callCcNn_taken {cc : Cond} {s : State} (h : cc.holds s.regs.f = true) (nn : Word) :
    exec (.callCcNn cc nn) s = .next (s.callTo nn) := congrArg Host.Outcome.next (if_pos h)

/-- Where its condition fails, `CALL cc,nn` only sets MEMPTR (R409). -/
theorem exec_callCcNn_untaken {cc : Cond} {s : State} (h : cc.holds s.regs.f = false) (nn : Word) :
    exec (.callCcNn cc nn) s = .next (s.setMemptr nn) := congrArg Host.Outcome.next (if_neg (Bool.not_eq_true _ ▸ h))

/-- Settles O41: a row calls its target, or its condition fails. -/
theorem calls : Obligations.Calls := by
  intro s h i target hi
  refine ⟨?_, fun cc nn hcc => ?_⟩
  · obtain rfl | ⟨cc, rfl, hcc⟩ | ⟨t, rfl, rfl⟩ := hi
    · exact State.callTo_leaves h target
    · rw [exec_callCcNn_taken hcc]
      exact State.callTo_leaves h target
    · rw [← restartTarget_eq]
      exact State.callTo_leaves h (restartTarget t)
  · rw [exec_callCcNn_untaken hcc]
    exact leaves_regs s _

/-- Settles O42: each row pops the return address, `RET cc` where its condition holds. -/
theorem returns : Obligations.Returns := by
  refine fun s => ⟨leaves_next.mpr ⟨s.returnPop_regs, s.returnPop_frame⟩, fun cc => ?_, fun i hi => ?_⟩
  · show Leaves (.next (State.tick (if cc.holds s.regs.f then s.returnPop else s) 1)) s _ _ _
    cases cc.holds s.regs.f with
    | true =>
      exact leaves_next.mpr ⟨(State.tick_regs _ 1).trans s.returnPop_regs,
        s.returnPop_frame.trans (State.tick_frame _ 1)⟩
    | false => exact leaves_next.mpr ⟨State.tick_regs s 1, State.tick_frame s 1⟩
  · have hret := And.intro s.returnFromInterrupt_regs s.returnFromInterrupt_frame
    obtain rfl | rfl | ⟨hadm, y, rfl⟩ := hi
    · exact leaves_next.mpr hret
    · exact leaves_next.mpr hret
    · exact leaves_admitted hadm hret

end Sys2Proof.Machine
end

section
/-!
Port input and output (49_io.md R430 to R435).
-/

namespace Sys2Proof.Machine

/-- A read of the port BC and its MEMPTR (R432). -/
theorem State.inputC_frame (s : State) : Frame s.answered s.inputC [] (s.inp s.regs.bc) :=
  (s.portIn_frame _).trans (State.setMemptr_frame _ _)

/-- Settles O43: the answer of the host goes to A, or to a register and the flags, or to the flags alone. -/
theorem portInput : Obligations.PortInput := by
  refine fun s => ⟨fun n => leaves_next.mpr ⟨?_, ?_⟩, fun r => leaves_next.mpr ⟨?_, ?_⟩,
    fun hadm => leaves_admitted hadm ⟨?_, ?_⟩⟩
  · exact (s.setMemptr (word s.regA n + 1)).setReg8_sets .a (s.portByte (word s.regA n))
  · exact (s.portIn_frame _).trans ((State.setReg8_frame _ .a _).trans (State.setMemptr_frame _ _))
  · exact inputFlags_eq _ _ ▸ s.inputC.setF_setReg8_sets r _ _
  · exact s.inputC_frame.trans ((State.setF_frame _ _).trans (State.setReg8_frame _ r _))
  · rw [← inputFlags_eq]; rfl
  · exact s.inputC_frame.trans (State.setF_frame _ _)

/-- A write of a port, then of MEMPTR (R431, R434, R435). -/
theorem State.portOut_setMemptr_frame (s : State) (port m : Word) (v : Byte) :
    Frame s ((s.portOut port v).setMemptr m) [] (outp port v) :=
  (s.portOut_frame port v).trans (State.setMemptr_frame _ m)

/-- Settles O44: each row writes one port and MEMPTR. -/
theorem portOutput : Obligations.PortOutput := fun s =>
  ⟨fun _ => leaves_next.mpr ⟨rfl, s.portOut_setMemptr_frame _ _ _⟩,
    fun r => s.reg8_eq r ▸ leaves_next.mpr ⟨rfl, s.portOut_setMemptr_frame _ _ (s.reg8 r)⟩,
    fun hadm => leaves_admitted hadm ⟨rfl, s.portOut_setMemptr_frame _ _ _⟩⟩

end Sys2Proof.Machine
end

section
/-!
Decoding a list of bytes (30_encoding.md R131, R132, R134, R135): a list that is no shorter than the instruction at
its head decodes to it, and no lead-in alone is that long.
-/

namespace Sys2Proof

/-- The instruction that a lead-in alone begins, the bytes to come read as 0, is longer than the lead-in (R131). -/
theorem bareLeadIn_short {l : List Byte} {j : Instr} (h : bareLeadIn l = some j) :
    l.length < (decodeHead l).length := by
  unfold bareLeadIn at h
  split_ifs at h <;> subst l <;> decide

/-- A list that holds the whole of the instruction at its head decodes to it. -/
theorem decode_of_length_le {l : List Byte} (h : (decodeHead l).length ≤ l.length) :
    decode l = .ok (decodeHead l, l.drop (decodeHead l).length) := by
  have hne : l ≠ [] := by
    rintro rfl
    exact absurd h (by decide)
  have hlead : bareLeadIn l = none := by
    cases hj : bareLeadIn l with
    | none => rfl
    | some j => exact absurd h (Nat.not_le.mpr (bareLeadIn_short hj))
  simp only [decode, if_neg hne, hlead, if_pos h]

/-- An encoding with any bytes after it decodes to the instruction and those bytes. -/
theorem decode_encode_append {i : Instr} (hw : i.wellFormed = true) (hr : i.isRouter = false) (rest : List Byte) :
    decode (encode i ++ rest) = .ok (i, rest) := by
  have hhead : decodeHead (encode i ++ rest) = i := decodeHead_encode hw hr rest
  have hlen : i.length ≤ (encode i ++ rest).length := by
    rw [List.length_append, encode_length]
    exact Nat.le_add_right _ _
  rw [decode_of_length_le (hhead.symm ▸ hlen), hhead, List.drop_left' (encode_length i)]

/-- A router row decodes from its lead-in bytes alone (R131). -/
theorem decode_encode_router {i : Instr} (h : i.isRouter = true) : decode (encode i) = .ok (i, []) := by
  cases i
  case prefixCB | prefixED | prefixDD | prefixFD => rfl
  case prefixXYCB x => cases x <;> rfl
  all_goals exact Bool.noConfusion h

/-- Settles O1: the encoding is as long as the instruction at the head of the list, and that is the instruction. -/
theorem decodeOfEncodeIsTheInstruction : Obligations.DecodeOfEncodeIsTheInstruction :=
  ⟨fun _ rest hw hr => decode_encode_append hw hr rest, fun _ => decode_encode_router⟩

/-- Settles O3: no instruction is longer than four bytes, so the one at the head stands in the list whole. -/
theorem everyFourBytesHoldAnInstruction : Obligations.EveryFourBytesHoldAnInstruction := by
  intro l hl
  obtain ⟨hmin, hmax⟩ := (decodeHead l).length_bounds
  exact ⟨_, _, decode_of_length_le (hmax.trans hl), hmin, hmax, List.length_drop⟩

/-- Settles O4: each sequence is decoded. -/
theorem wordsOfTheSpecDecode : Obligations.WordsOfTheSpecDecode := ⟨rfl, rfl, rfl, rfl, rfl, rfl, rfl, rfl, rfl⟩

end Sys2Proof
end

section
/-!
Encoding what was decoded gives the bytes back (30_encoding.md R125, R132, R135, R136). Table by table the encoding of
the instruction a window decodes to is the head of the window: the opcode byte is put together from the fields the
decoder read, and the operand bytes follow it.
-/

namespace Sys2Proof

open Machine

/-- `i` is well-formed and `l` begins with its encoding. -/
def Instr.Heads (i : Instr) (l : List Byte) : Prop := i.wellFormed = true ∧ encode i <+: l

section
variable {i : Instr} {pre l w : List Byte} {a b n1 n2 : Byte}

/-- An opcode byte `a` and operand bytes after the lead-in bytes `pre`. -/
theorem Instr.Heads.of_opcode (hw : i.wellFormed = true) (he : encode i = pre ++ a :: l) (hb : a = b) (hl : l <+: w) :
    i.Heads (pre ++ b :: w) :=
  ⟨hw, by rw [he, hb]; exact (List.prefix_append_right_inj pre).mpr ((List.prefix_cons_inj b).mpr hl)⟩

/-- An opcode byte `a` and a word, low byte first (R123). -/
theorem Instr.Heads.of_word (hw : i.wellFormed = true)
    (he : encode i = pre ++ a :: [lo (word n2 n1), hi (word n2 n1)]) (hb : a = b) :
    i.Heads (pre ++ b :: n1 :: n2 :: w) :=
  .of_opcode hw he hb ⟨w, by rw [lo_word, hi_word]; rfl⟩

/-- An instruction without operand bytes. -/
theorem Instr.Heads.of_encode (h : i.wellFormed = true ∧ encode i = l) : i.Heads (l ++ w) :=
  ⟨h.1, h.2.symm ▸ List.prefix_append l w⟩

end

/-! ## An opcode byte from its fields (R125) -/

section
variable {b : Byte} {x : BitVec 2} {y z : BitVec 3}

theorem byte_of_xyz (hx : opX b = x) (hy : opY b = y) (hz : opZ b = z) :
    field x 6 ||| field y 3 ||| field z 0 = b := by
  subst hx hy hz; revert b; decide +kernel

/-- The field `y` last, as where it holds an operand. -/
theorem byte_of_xzy (hx : opX b = x) (hz : opZ b = z) (hy : opY b = y) :
    field x 6 ||| field z 0 ||| field y 3 = b := by
  subst hx hy hz; revert b; decide +kernel

/-- The field `y` as a pair code and the bit `q`, the pair code last. -/
theorem byte_of_xqzp {q : Bool} {p : BitVec 2} (hx : opX b = x) (hq : opQ b = q) (hz : opZ b = z) (hp : opP b = p) :
    field x 6 ||| field (BitVec.ofBool q) 3 ||| field z 0 ||| field p 4 = b := by
  subst hx hq hz hp; revert b; decide +kernel

/-- The condition code of JR last: the entries of its row from 4 on (R127). -/
theorem byte_of_jrCc {c : BitVec 2} (hx : opX b = 0) (hz : opZ b = 0) (h0 : opY b ≠ 0) (h1 : opY b ≠ 1)
    (h2 : opY b ≠ 2) (h3 : opY b ≠ 3) (hc : opCc b = c) : 0x20 ||| field c 3 = b := by
  subst hc; revert b; decide +kernel

theorem opQ_of_opY_ne (h1 : opY b ≠ 1) (h3 : opY b ≠ 3) (h5 : opY b ≠ 5) (h7 : opY b ≠ 7) : opQ b = false := by
  revert b; decide +kernel

end

/-! ## The codes of what a code names (R126, R127) -/

theorem Reg8.code_of_ofCode {c : BitVec 3} {r : Reg8} (h : Reg8.ofCode c = some r) : c = r.code := by
  revert c; cases r <;> decide

theorem Reg8.eq_six_of_ofCode {c : BitVec 3} (h : Reg8.ofCode c = none) : c = 6 := by revert c; decide

theorem IndexSrc.code_of_ofCode {c : BitVec 3} {r : IndexSrc} (h : IndexSrc.ofCode c = some r) : c = r.code := by
  revert c; cases r <;> decide

theorem IndexSrc.eq_six_of_ofCode {c : BitVec 3} (h : IndexSrc.ofCode c = none) : c = 6 := by revert c; decide

theorem Pair.code_ofCode (c : BitVec 2) : c = (Pair.ofCode c).code := by revert c; decide
theorem StackPair.code_ofCode (c : BitVec 2) : c = (StackPair.ofCode c).code := by revert c; decide
theorem Cond.code_ofCode (c : BitVec 3) : c = (Cond.ofCode c).code := by revert c; decide
theorem JrCond.code_ofCode (c : BitVec 2) : c = (JrCond.ofCode c).code := by revert c; decide

section
variable {b : Byte}

/-! ## BASE (R139) -/

theorem decodeBase0_heads (hx : opX b = 0) (n1 n2 n3 : Byte) :
    (decodeBase0 b n1 n2).Heads ([] ++ b :: [n1, n2, n3]) := by
  unfold decodeBase0
  dsimp only
  split
  case h_1 hz =>
    split
    case h_5 h0 h1 h2 h3 =>
      exact .of_opcode rfl rfl (byte_of_jrCc hx hz h0 h1 h2 h3 (JrCond.code_ofCode _)) ⟨_, rfl⟩
    all_goals next hy => exact .of_opcode rfl rfl (byte_of_xyz hx hy hz) ⟨_, rfl⟩
  case h_2 hz =>
    split
    · next hq => exact .of_opcode rfl rfl (byte_of_xqzp hx hq hz (Pair.code_ofCode _)) ⟨_, rfl⟩
    · next hq => exact .of_word rfl rfl (byte_of_xqzp hx (Bool.eq_false_of_not_eq_true hq) hz (Pair.code_ofCode _))
  case h_3 hz =>
    split
    case h_1 hy | h_2 hy | h_3 hy | h_4 hy => exact .of_opcode rfl rfl (byte_of_xyz hx hy hz) ⟨_, rfl⟩
    all_goals next hy => exact .of_word rfl rfl (byte_of_xyz hx hy hz)
  case h_4 hz =>
    split
    · next hq => exact .of_opcode rfl rfl (byte_of_xqzp hx hq hz (Pair.code_ofCode _)) ⟨_, rfl⟩
    · next hq =>
      exact .of_opcode rfl rfl (byte_of_xqzp hx (Bool.eq_false_of_not_eq_true hq) hz (Pair.code_ofCode _)) ⟨_, rfl⟩
  case h_5 hz | h_6 hz | h_7 hz =>
    split
    · next hr => exact .of_opcode rfl rfl (byte_of_xzy hx hz (Reg8.code_of_ofCode hr)) ⟨_, rfl⟩
    · next hr => exact .of_opcode rfl rfl (byte_of_xyz hx (Reg8.eq_six_of_ofCode hr) hz) ⟨_, rfl⟩
  case h_8 hz =>
    split
    all_goals next hy => exact .of_opcode rfl rfl (byte_of_xyz hx hy hz) ⟨_, rfl⟩

theorem decodeBase1_encode (hx : opX b = 1) : (decodeBase1 b).wellFormed = true ∧ encode (decodeBase1 b) = [b] := by
  revert b; decide +kernel

theorem decodeBase2_encode (hx : opX b = 2) : (decodeBase2 b).wellFormed = true ∧ encode (decodeBase2 b) = [b] := by
  revert b; decide +kernel

theorem decodeBase3_heads (hx : opX b = 3) (n1 n2 n3 : Byte) :
    (decodeBase3 b n1 n2).Heads ([] ++ b :: [n1, n2, n3]) := by
  unfold decodeBase3
  dsimp only
  split
  case h_1 hz => exact .of_opcode rfl rfl (byte_of_xzy hx hz (Cond.code_ofCode _)) ⟨_, rfl⟩
  case h_2 hz =>
    split
    case h_5 h1 h3 h5 h7 =>
      exact .of_opcode rfl rfl (byte_of_xqzp hx (opQ_of_opY_ne h1 h3 h5 h7) hz (StackPair.code_ofCode _)) ⟨_, rfl⟩
    all_goals next hy => exact .of_opcode rfl rfl (byte_of_xyz hx hy hz) ⟨_, rfl⟩
  case h_3 hz | h_5 hz => exact .of_word rfl rfl (byte_of_xzy hx hz (Cond.code_ofCode _))
  case h_4 hz =>
    split
    case h_1 hy => exact .of_word rfl rfl (byte_of_xyz hx hy hz)
    all_goals next hy => exact .of_opcode rfl rfl (byte_of_xyz hx hy hz) ⟨_, rfl⟩
  case h_6 hz =>
    split
    case h_1 hy => exact .of_word rfl rfl (byte_of_xyz hx hy hz)
    case h_5 h1 h3 h5 h7 =>
      exact .of_opcode rfl rfl (byte_of_xqzp hx (opQ_of_opY_ne h1 h3 h5 h7) hz (StackPair.code_ofCode _)) ⟨_, rfl⟩
    all_goals next hy => exact .of_opcode rfl rfl (byte_of_xyz hx hy hz) ⟨_, rfl⟩
  case h_7 hz =>
    unfold decodeAluN
    split
    all_goals next hy => exact .of_opcode rfl rfl (byte_of_xyz hx hy hz) ⟨_, rfl⟩
  case h_8 hz => exact .of_opcode rfl rfl (byte_of_xzy hx hz rfl) ⟨_, rfl⟩

theorem decodeBase_heads (b n1 n2 n3 : Byte) : (decodeBase b n1 n2).Heads [b, n1, n2, n3] := by
  unfold decodeBase
  split
  · next hx => exact decodeBase0_heads hx n1 n2 n3
  · next hx => exact .of_encode (decodeBase1_encode hx)
  · next hx => exact .of_encode (decodeBase2_encode hx)
  · next hx => exact decodeBase3_heads hx n1 n2 n3

/-! ## CB and ED (R141, R142) -/

theorem decodeCB_encode (b : Byte) : (decodeCB b).wellFormed = true ∧ encode (decodeCB b) = [0xCB, b] := by
  revert b; decide +kernel

theorem im0Alias_wellFormed {y : BitVec 3} (h0 : y ≠ 0) (h2 : y ≠ 2) (h3 : y ≠ 3) (h6 : y ≠ 6) (h7 : y ≠ 7) :
    (Instr.im0Alias y).wellFormed = true := by
  revert y; decide

theorem decodeED7_encode (hx : opX b = 1) (hz : opZ b = 7) :
    (decodeED7 b).wellFormed = true ∧ encode (decodeED7 b) = [0xED, b] := by
  revert b; decide +kernel

theorem decodeED2_encode (hx : opX b = 2) : (decodeED2 b).wellFormed = true ∧ encode (decodeED2 b) = [0xED, b] := by
  revert b; decide +kernel

theorem unassignedED_wellFormed (h1 : opX b ≠ 1) (h2 : opX b ≠ 2) : (Instr.unassignedED b).wellFormed = true := by
  revert b; decide +kernel

theorem decodeED1_heads (hx : opX b = 1) (n1 n2 : Byte) :
    (decodeED1 b n1 n2).Heads ([0xED] ++ b :: [n1, n2]) := by
  unfold decodeED1
  dsimp only
  split
  case h_1 hz | h_2 hz =>
    split
    · next hr => exact .of_opcode rfl rfl (byte_of_xzy hx hz (Reg8.code_of_ofCode hr)) ⟨_, rfl⟩
    · next hr => exact .of_opcode rfl rfl (byte_of_xyz hx (Reg8.eq_six_of_ofCode hr) hz) ⟨_, rfl⟩
  case h_3 hz =>
    split
    · next hq => exact .of_opcode rfl rfl (byte_of_xqzp hx hq hz (Pair.code_ofCode _)) ⟨_, rfl⟩
    · next hq =>
      exact .of_opcode rfl rfl (byte_of_xqzp hx (Bool.eq_false_of_not_eq_true hq) hz (Pair.code_ofCode _)) ⟨_, rfl⟩
  case h_4 hz =>
    split
    · next hq => exact .of_word rfl rfl (byte_of_xqzp hx hq hz (Pair.code_ofCode _))
    · next hq => exact .of_word rfl rfl (byte_of_xqzp hx (Bool.eq_false_of_not_eq_true hq) hz (Pair.code_ofCode _))
  case h_5 hz =>
    split
    · next hy => exact .of_opcode rfl rfl (byte_of_xyz hx hy hz) ⟨_, rfl⟩
    · next hy => exact .of_opcode (bne_iff_ne.mpr hy) rfl (byte_of_xzy hx hz rfl) ⟨_, rfl⟩
  case h_6 hz =>
    split
    · next hy => exact .of_opcode rfl rfl (byte_of_xyz hx hy hz) ⟨_, rfl⟩
    · next h0 =>
      split
      · next hy => exact .of_opcode rfl rfl (byte_of_xyz hx hy hz) ⟨_, rfl⟩
      · next h1 =>
        exact .of_opcode (Bool.and_eq_true_iff.mpr ⟨bne_iff_ne.mpr h0, bne_iff_ne.mpr h1⟩) rfl
          (byte_of_xzy hx hz rfl) ⟨_, rfl⟩
  case h_7 hz =>
    split
    case h_6 h0 h2 h3 h6 h7 =>
      exact .of_opcode (im0Alias_wellFormed h0 h2 h3 h6 h7) rfl (byte_of_xzy hx hz rfl) ⟨_, rfl⟩
    all_goals next hy => exact .of_opcode rfl rfl (byte_of_xyz hx hy hz) ⟨_, rfl⟩
  case h_8 hz => exact .of_encode (l := [0xED, b]) (decodeED7_encode hx hz)

theorem decodeED_heads (b n1 n2 : Byte) : (decodeED b n1 n2).Heads [0xED, b, n1, n2] := by
  unfold decodeED
  split
  · next hx => exact decodeED1_heads hx n1 n2
  · next hx => exact .of_encode (decodeED2_encode hx)
  · next h1 h2 => exact .of_opcode (pre := [0xED]) (unassignedED_wellFormed h1 h2) rfl rfl ⟨_, rfl⟩

/-! ## DD and FD (R145) -/

/-- The bytes of the load quarter that R145 assigns. -/
theorem fields_of_xyAssigned_load (hx : opX b = 1) (ha : xyAssigned b = true) : (opY b = 6 → opZ b ≠ 6)
    ∧ (opY b = 4 ∨ opY b = 5 ∨ opY b = 6 ∨ opZ b = 4 ∨ opZ b = 5 ∨ opZ b = 6) := by
  revert b; decide +kernel

/-- The bytes of the accumulator quarter that R145 assigns. -/
theorem opZ_of_xyAssigned_alu (hx : opX b = 2) (ha : xyAssigned b = true) : opZ b = 4 ∨ opZ b = 5 ∨ opZ b = 6 := by
  revert b; decide +kernel

/-- The bytes of the other quarters that R145 assigns, those before a word apart. -/
theorem xyAssigned_rest (h1 : opX b ≠ 1) (h2 : opX b ≠ 2) (ha : xyAssigned b = true) :
    b ∈ ([0x21, 0x22, 0x2A] : List Byte) ∨ b ∈ ([0x09, 0x19, 0x29, 0x39, 0x23, 0x2B, 0x24, 0x2C, 0x25, 0x2D, 0x26,
      0x2E, 0x34, 0x35, 0x36, 0xCB, 0xE1, 0xE5, 0xE3, 0xE9, 0xF9] : List Byte) := by
  revert b; decide +kernel

theorem Reg8.isHOrL_of_ne {r : Reg8} (hh : r ≠ .h) (hl : r ≠ .l) : r.isHOrL = false := by
  cases r <;> first | rfl | contradiction

theorem decodeXY1_heads (hx : opX b = 1) (ha : xyAssigned b = true) (x : Index) (n1 n2 : Byte) :
    (decodeXY1 x b n1).Heads ([x.leadIn] ++ b :: [n1, n2]) := by
  obtain ⟨h66, hyz⟩ := fields_of_xyAssigned_load hx ha
  unfold decodeXY1
  split
  case h_1 hy | h_2 hy =>
    split
    · next hr => exact .of_opcode rfl rfl (byte_of_xyz hx hy (IndexSrc.code_of_ofCode hr)) ⟨_, rfl⟩
    · next hr => exact .of_opcode rfl rfl (byte_of_xyz hx hy (IndexSrc.eq_six_of_ofCode hr)) ⟨_, rfl⟩
  case h_3 hy =>
    split
    · next hr => exact .of_opcode rfl rfl (byte_of_xyz hx hy (Reg8.code_of_ofCode hr)) ⟨_, rfl⟩
    · next hr => exact .of_opcode rfl rfl (byte_of_xyz hx hy (Reg8.code_of_ofCode hr)) ⟨_, rfl⟩
    · next r hh hl hr =>
      have hw : r.isHOrL = false := Reg8.isHOrL_of_ne hh hl
      exact .of_opcode (congrArg (!·) hw) rfl (byte_of_xyz hx hy (Reg8.code_of_ofCode hr)) ⟨_, rfl⟩
    · next hr => exact absurd (Reg8.eq_six_of_ofCode hr) (h66 hy)
  case h_4 h4 h5 h6 =>
    split
    case h_1 r hr hz | h_2 r hr hz =>
      have hc := Reg8.code_of_ofCode hr
      have hw : r.isHOrL = false := Reg8.isHOrL_of_ne (by rintro rfl; exact h4 hc) (by rintro rfl; exact h5 hc)
      exact .of_opcode (congrArg (!·) hw) rfl (byte_of_xzy hx hz hc) ⟨_, rfl⟩
    case h_3 r hr hz => exact .of_opcode rfl rfl (byte_of_xzy hx hz (Reg8.code_of_ofCode hr)) ⟨_, rfl⟩
    case h_4 hz4 hz5 hz6 =>
      cases hr : Reg8.ofCode (opY b) with
      | none => exact absurd (Reg8.eq_six_of_ofCode hr) h6
      | some r =>
        rcases hyz with h | h | h | h | h | h
        exacts [absurd h h4, absurd h h5, absurd h h6, absurd h (hz4 r hr), absurd h (hz5 r hr), absurd h (hz6 r hr)]

theorem decodeXY2_heads (hx : opX b = 2) (ha : xyAssigned b = true) (x : Index) (n1 n2 : Byte) :
    (decodeXY2 x b n1).Heads ([x.leadIn] ++ b :: [n1, n2]) := by
  unfold decodeXY2
  split
  case h_1 hz =>
    unfold decodeAluXYH
    split
    all_goals next hy => exact .of_opcode rfl rfl (byte_of_xyz hx hy hz) ⟨_, rfl⟩
  case h_2 hz =>
    unfold decodeAluXYL
    split
    all_goals next hy => exact .of_opcode rfl rfl (byte_of_xyz hx hy hz) ⟨_, rfl⟩
  case h_3 hz =>
    unfold decodeAluIndXY
    split
    all_goals next hy => exact .of_opcode rfl rfl (byte_of_xyz hx hy hz) ⟨_, rfl⟩
  case h_4 h4 h5 h6 =>
    rcases opZ_of_xyAssigned_alu hx ha with h | h | h
    exacts [absurd h h4, absurd h h5, absurd h h6]

theorem decodeXYRest_heads (h1 : opX b ≠ 1) (h2 : opX b ≠ 2) (ha : xyAssigned b = true) (x : Index) (n1 n2 : Byte) :
    (decodeXYRest x b n1 n2).Heads ([x.leadIn] ++ b :: [n1, n2]) := by
  obtain hb | hb := xyAssigned_rest h1 h2 ha
  · fin_cases hb
    all_goals exact .of_word rfl rfl rfl
  · fin_cases hb
    all_goals exact .of_opcode rfl rfl rfl ⟨_, rfl⟩

/-! ## DDCB and FDCB (R146) -/

theorem decodeXYCB_heads (x : Index) (d b : Byte) : (decodeXYCB x d b).Heads ([x.leadIn, 0xCB, d] ++ [b]) := by
  unfold decodeXYCB
  dsimp only
  split
  case h_1 hx hr =>
    unfold decodeRotIndXYR
    split
    all_goals next hy => exact .of_opcode rfl rfl (byte_of_xyz hx hy (Reg8.code_of_ofCode hr)) ⟨_, rfl⟩
  case h_2 hx hr =>
    unfold decodeRotIndXY
    split
    all_goals next hy => exact .of_opcode rfl rfl (byte_of_xyz hx hy (Reg8.eq_six_of_ofCode hr)) ⟨_, rfl⟩
  case h_3 hx hr | h_5 hx hr | h_7 hx hr =>
    have hb := byte_of_xyz hx rfl (Reg8.code_of_ofCode hr)
    exact .of_opcode rfl rfl hb ⟨_, rfl⟩
  case h_4 hx hr | h_6 hx hr | h_8 hx hr =>
    have hb := byte_of_xzy hx (Reg8.eq_six_of_ofCode hr) rfl
    exact .of_opcode rfl rfl hb ⟨_, rfl⟩

/-! ## The window (R131) -/

theorem decodeIndexed_heads (x : Index) (b n1 n2 : Byte) : (decodeIndexed x b n1 n2).Heads [x.leadIn, b, n1, n2] := by
  cases ha : xyAssigned b with
  | false =>
    rw [decodeIndexed_unassigned ha]
    exact .of_opcode (pre := [x.leadIn]) (congrArg (!·) ha) rfl rfl ⟨_, rfl⟩
  | true =>
    unfold decodeIndexed
    split
    · next hb => exact hb ▸ decodeXYCB_heads x n1 n2
    · unfold decodeXY
      split
      · next hx => exact decodeXY1_heads hx ha x n1 n2
      · next hx => exact decodeXY2_heads hx ha x n1 n2
      · next h1 h2 => exact decodeXYRest_heads h1 h2 ha x n1 n2

/-- Four bytes begin with the encoding of the instruction they decode to, which is well-formed. -/
theorem decodeWindow_heads (b0 b1 b2 b3 : Byte) : (decodeWindow b0 b1 b2 b3).Heads [b0, b1, b2, b3] := by
  unfold decodeWindow
  split
  · next h => exact h ▸ .of_encode (decodeCB_encode b1)
  · split
    · next h => exact h ▸ decodeED_heads b1 b2 b3
    · split
      · next h => exact h ▸ decodeIndexed_heads .ix b1 b2 b3
      · split
        · next h => exact h ▸ decodeIndexed_heads .iy b1 b2 b3
        · exact decodeBase_heads b0 b1 b2 b3

end

/-! ## A list of bytes -/

/-- The four bytes that are decoded are those of the list, with zeros after its end. -/
theorem window_prefix (l : List Byte) :
    [l.getD 0 0, l.getD 1 0, l.getD 2 0, l.getD 3 0] <+: l ++ [0, 0, 0, 0] := by
  match l with
  | [] | [_] | [_, _] | [_, _, _] | _ :: _ :: _ :: _ :: _ => exact ⟨_, rfl⟩

/-- A list that holds the whole of the instruction at its head begins with its encoding. -/
theorem decodeHead_heads {l : List Byte} (h : (decodeHead l).length ≤ l.length) : (decodeHead l).Heads l := by
  obtain ⟨hw, hpre⟩ := decodeWindow_heads (l.getD 0 0) (l.getD 1 0) (l.getD 2 0) (l.getD 3 0)
  exact ⟨hw, List.prefix_of_prefix_length_le (hpre.trans (window_prefix l)) (List.prefix_append l _)
    ((encode_length _).trans_le h)⟩

/-- A lead-in alone is the encoding of its router row (R131). -/
theorem bareLeadIn_encode {l : List Byte} {j : Instr} (h : bareLeadIn l = some j) :
    j.wellFormed = true ∧ encode j = l := by
  unfold bareLeadIn at h
  split_ifs at h <;> cases h <;> subst l <;> exact ⟨rfl, rfl⟩

/-- Settles O2: a list decodes as a lead-in alone or as the instruction at its head. -/
theorem encodeOfDecodeIsTheBytes : Obligations.EncodeOfDecodeIsTheBytes := by
  intro l i rest h
  unfold decode at h
  split at h
  · cases h
  · split at h
    · next hj =>
      cases h
      obtain ⟨hw, he⟩ := bareLeadIn_encode hj
      exact ⟨hw, (List.append_nil _).trans he⟩
    · dsimp only at h
      split at h
      · next hlen =>
        cases h
        obtain ⟨hw, hpre⟩ := decodeHead_heads hlen
        exact ⟨hw, encode_length _ ▸ List.prefix_iff_eq_append.mp hpre⟩
      · cases h

end Sys2Proof
end

section
/-!
Jumps (48_jump_call_return.md R400 to R406): PC and MEMPTR, and B of DJNZ.
-/

namespace Sys2Proof.Machine

/-- A taken relative jump and its extra units (R403 to R405). -/
theorem State.jumpTo_tick_frame (s : State) (a : Word) (n : Nat) :
    Frame s ((s.jumpTo a).tick (n + 1)) [] [.tick (n + 1)] :=
  (Frame.of_regs _ rfl).trans (State.tick_frame _ (n + 1))

/-- A jump after a write of an 8-bit register keeps that write and jumps from the same PC (R405). -/
theorem State.setReg8_jumpTo_sets (s : State) (r : Reg8) (v : Byte) (a : Word) :
    Sets8 { s.regs with pc := a, memptr := a } ((s.setReg8 r v).jumpTo a).regs r v := by
  have h := (s.jumpTo a).setReg8_sets r v
  cases r <;> exact h

/-- Where B does not become 0, DJNZ jumps (R405). -/
theorem exec_djnz_taken {s : State} (h : s.regs.view .b - 1 ≠ 0) (e : Byte) :
    exec (.djnz e) s = .next (((s.setReg8 .b (s.regB - 1)).jumpTo (s.relative e)).tick 6) := by
  refine congrArg Host.Outcome.next (if_pos ?_)
  rw [State.setReg8_b_regB]
  exact bne_iff_ne.mpr h

/-- Where B becomes 0, DJNZ falls through (R405). -/
theorem exec_djnz_untaken {s : State} (h : s.regs.view .b - 1 = 0) (e : Byte) :
    exec (.djnz e) s = .next ((s.setReg8 .b (s.regB - 1)).tick 1) := by
  refine congrArg Host.Outcome.next (if_neg ?_)
  rw [State.setReg8_b_regB]
  exact mt bne_iff_ne.mp (not_not.mpr h)

/-- DJNZ counts B down and jumps unless it becomes 0 (R405). -/
theorem exec_djnz_leaves (s : State) (e : Byte) :
    let target := s.regs.pc + e.signExtend 16
    let b := s.regs.view .b - 1
    Leaves (exec (.djnz e) s) s
      (Sets8 (if b = 0 then s.regs else { s.regs with pc := target, memptr := target }) · .b b) []
      (if b = 0 then [Event.tick 1] else [.tick 6]) := by
  dsimp only
  by_cases h : s.regs.view .b - 1 = 0
  · rw [exec_djnz_untaken h, if_pos h, if_pos h]
    exact leaves_next.mpr ⟨s.setReg8_sets .b _, (s.setReg8_frame .b _).trans (State.tick_frame _ 1)⟩
  · rw [exec_djnz_taken h, if_neg h, if_neg h]
    exact leaves_next.mpr ⟨s.setReg8_jumpTo_sets .b _ _,
      (s.setReg8_frame .b _).trans (State.jumpTo_tick_frame _ _ 5)⟩

/-- Settles O40: a row jumps, or where its condition fails it falls through. -/
theorem jumps : Obligations.Jumps := by
  refine fun s => ⟨fun nn => leaves_regs s _, fun cc nn => ?_, leaves_regs s _, fun x => ?_, fun e => ?_,
    fun cc e => ?_, exec_djnz_leaves s⟩
  · show Leaves (.next (if cc.holds s.regs.f then s.jumpTo nn else s.setMemptr nn)) s _ _ _
    cases cc.holds s.regs.f <;> exact leaves_regs s _
  · exact s.index_eq x ▸ leaves_regs s _
  · exact leaves_next.mpr ⟨rfl, s.jumpTo_tick_frame _ 4⟩
  · show Leaves (.next (if cc.toCond.holds s.regs.f then (s.jumpTo (s.relative e)).tick 5 else s)) s _ _ _
    cases cc.toCond.holds s.regs.f with
    | true => exact leaves_next.mpr ⟨rfl, s.jumpTo_tick_frame _ 4⟩
    | false => exact leaves_regs s _

end Sys2Proof.Machine
end

section
/-!
The router and unassigned rows under the policies of R10 (30_encoding.md R131, R137, R138, 60_exceptions.md R470,
R471). A documented row that is no router row and no unassigned one answers under every policy; the other classes
hang on one policy each.
-/

namespace Sys2Proof.Machine

/-- Settles O6: taking `step()` off the schedule changes no byte and no PC, so the same instruction is decoded. -/
theorem stepRunsTheDecodedInstruction : Obligations.StepRunsTheDecodedInstruction := by
  intro s h
  rw [step, h]
  rfl

/-- A documented row with an assigned meaning answers a next state, whatever the policies. -/
theorem exec_assigned_answers {i : Instr} {s : State} (hr : i.isRouter = false) (hu : i.undocumented = false)
    (hed : ∀ b, i ≠ .unassignedED b) (hxy : ∀ x b, i ≠ .unassignedXY x b) : ∃ t, exec i s = .next t := by
  cases i
  case unassignedED b => exact absurd rfl (hed b)
  case unassignedXY x b => exact absurd rfl (hxy x b)
  case bitIndHl b => exact execBitIndHl_answers b s
  all_goals first | exact Bool.noConfusion hr | exact Bool.noConfusion hu | exact ⟨_, rfl⟩

/-! ## UNDOC_ADMIT = Refuse (R137) -/

/-- The soft path may fault and never refuses (R470). -/
theorem softNop_not_refused (tb : Table) (b : Byte) (s : State) (r : Refusal) : softNop tb b s ≠ .refused r := by
  unfold softNop
  split <;> exact nofun

/-- Settles O50: an undocumented row asks UNDOC_ADMIT, an unassigned ED entry takes the soft path, and every other row
answers a next state. -/
theorem undocumentedRefused : Obligations.UndocumentedRefused := by
  intro s i hp hr hxy
  split
  · next hu =>
    obtain ⟨t, ht⟩ := exec_undocumented hu s
    exact ht.trans (State.ifAdmitted_refused hp _)
  · next hu =>
    intro r
    by_cases hed : ∃ b, i = .unassignedED b
    · obtain ⟨b, rfl⟩ := hed
      exact softNop_not_refused .ed b s r
    · obtain ⟨t, ht⟩ := exec_assigned_answers (s := s) hr (Bool.eq_false_of_not_eq_true hu) (not_exists.mp hed) hxy
      rw [ht]
      exact nofun

/-! ## DDFD_UNASSIGNED = SoftNop: the router rows (R131) -/

/-- Under `SoftNop` no instruction behind the router goes back to it. -/
theorem runWith_soft {s : State} (hsoft : s.params.ddfdUnassigned = .softNop) (again : List Byte → State → Result)
    {i : Instr} (hr : i.isRouter = false) : runWith again i s = exec i s := by
  rw [← runWith_exec]
  by_cases hxy : ∃ x b, i = .unassignedXY x b
  · obtain ⟨x, b, rfl⟩ := hxy
    rw [runWith_unassignedXY, runWith_unassignedXY, unassignedIndexed_soft hsoft, unassignedIndexed_soft hsoft]
  · exact runWith_any _ _ i s hr fun x b h => hxy ⟨x, b, h⟩

/-- The router has at least one turn. -/
theorem route_chainFuel (pre : List Byte) (s : State) : route chainFuel pre s =
    runWith (route (chainFuel - 1)) (s.decodeAfter pre) (s.fetchAfter pre (s.decodeAfter pre)) :=
  route_succ (chainFuel - 1) pre s

/-- Under `SoftNop` the router runs the instruction that the fetched bytes begin. -/
theorem route_soft {s : State} (hsoft : s.params.ddfdUnassigned = .softNop) (pre : List Byte) :
    route chainFuel pre s = exec (s.decodeAfter pre) (s.fetchAfter pre (s.decodeAfter pre)) := by
  rw [route_chainFuel]
  exact runWith_soft ((State.fetchAfter_params _ _ _).symm ▸ hsoft) _ (decodeHead_not_router _)

/-- Settles O49: each router row is the router with its lead-in bytes, and what that runs answers. -/
theorem routerRowsRunWhatTheyIntroduce : Obligations.RouterRowsRunWhatTheyIntroduce := by
  intro s hadm hsoft hstrict i pre hmem
  have hroute : exec i s = route chainFuel pre s := by
    rw [← runWith_exec]
    simp only [List.mem_cons, Prod.mk.injEq, List.not_mem_nil, or_false] at hmem
    rcases hmem with ⟨rfl, rfl⟩ | ⟨rfl, rfl⟩ | ⟨rfl, rfl⟩ | ⟨rfl, rfl⟩ | ⟨rfl, rfl⟩ | ⟨rfl, rfl⟩
    · exact runWith_prefixCB _ s
    · exact runWith_prefixED _ s
    · exact runWith_prefixDD _ s
    · exact runWith_prefixFD _ s
    · exact runWith_prefixXYCB _ s .ix
    · exact runWith_prefixXYCB _ s .iy
  have hp : (s.fetchAfter pre (s.decodeAfter pre)).params.Lenient := by
    rw [State.fetchAfter_params]
    exact ⟨hadm, hstrict, hsoft⟩
  obtain ⟨t, ht⟩ := exec_answers hp (decodeHead_not_router (pre ++ s.bytesAtPc))
  exact ⟨t, (hroute.trans (route_soft hsoft pre)).trans ht, ht⟩

/-! ## DDFD_UNASSIGNED = Reexecute: the discarded lead-ins (R138, R471) -/

/-- Under `Reexecute` an unassigned DD or FD entry is the router with its byte. -/
theorem exec_unassignedXY_reexecute {s : State} (hre : s.params.ddfdUnassigned = .reexecute) (x : Index) (b : Byte) :
    exec (.unassignedXY x b) s = route chainFuel [b] s := by
  rw [← runWith_exec, runWith_unassignedXY, unassignedIndexed, hre]

/-- The router's fuel is enough: where some byte of memory ends a chain by `route_fuel`, and else by `route_endless`
for a chain and since nothing goes back to the router for another byte. -/
theorem route_chainFuel_succ {s : State} (hre : s.params.ddfdUnassigned = .reexecute) (b : Byte) :
    route chainFuel [b] s = route (chainFuel + 1) [b] s := by
  by_cases hmem : ∃ a, ¬ chains (s.byteAt a)
  · obtain ⟨k, hk, hend⟩ := s.chain_ends hmem
    exact route_fuel k _ s b (Nat.add_le_add_right (Nat.le_of_lt_succ hk) 2) hend
  · have hall : ∀ a, chains (s.byteAt a) := not_exists_not.mp hmem
    by_cases hb : chains b
    · rw [route_endless _ s b hre hb hall, route_endless _ s b hre hb hall]
    · rw [route_chainFuel, route_succ]
      exact runWith_any _ _ _ _ (decodeHead_not_router _) fun y c h => hb (State.decodeAfter_one_unassigned h).1

/-- Under `Reexecute` an unassigned DD or FD entry is the instruction its byte begins (R471). -/
theorem exec_unassignedXY_dispatches {s : State} (hre : s.params.ddfdUnassigned = .reexecute) (x : Index) (b : Byte) :
    exec (.unassignedXY x b) s = exec (s.decodeAfter [b]) (s.fetchAfter [b] (s.decodeAfter [b])) := by
  rw [exec_unassignedXY_reexecute hre, route_chainFuel_succ hre, route_succ, runWith_exec]

/-- A lead-in discarded before a NOP changes nothing: no byte is left to fetch (R471). -/
theorem exec_unassignedXY_nop {s : State} (hre : s.params.ddfdUnassigned = .reexecute) (x : Index) :
    exec (.unassignedXY x 0x00) s = .next s := by
  have hnop : s.decodeAfter [0x00] = .nop := decodeHead_encode (i := .nop) rfl rfl s.bytesAtPc
  rw [exec_unassignedXY_dispatches hre, hnop]
  rfl

/-- The policies under which every byte but a discarded lead-in has a next state (R137, R470, R471). -/
structure Chaining (p : Params) : Prop where
  admitted : p.undocAdmit = .admitted
  notStrict : p.strictUnassigned = false
  reexecute : p.ddfdUnassigned = .reexecute

section
variable {s : State} (hp : Chaining s.params)
include hp

theorem Chaining.fetchAfter (pre : List Byte) (i : Instr) : Chaining (s.fetchAfter pre i).params :=
  (State.fetchAfter_params s pre i).symm ▸ hp

/-- Under these policies a row that is no router row and no unassigned DD or FD entry answers. -/
theorem exec_answers_of_ne {i : Instr} (hr : i.isRouter = false) (hxy : ∀ x b, i ≠ .unassignedXY x b) :
    ∃ t, exec i s = .next t := by
  by_cases hed : ∃ b, i = .unassignedED b
  · obtain ⟨b, rfl⟩ := hed
    exact ⟨_, softNop_notStrict hp.notStrict .ed b⟩
  · cases hu : i.undocumented with
    | false => exact exec_assigned_answers hr hu (not_exists.mp hed) hxy
    | true =>
      obtain ⟨t, ht⟩ := exec_undocumented hu s
      exact ⟨t, ht.trans (State.ifAdmitted_admitted hp.admitted _)⟩

/-- An unassigned DD or FD entry answers where the entry that its byte and the next one make, if they make one, does. -/
theorem exec_unassignedXY_answers_of_next (x : Index) {b : Byte}
    (hnext : ∀ y, chains b → ∃ t, exec (.unassignedXY y (s.byteAt s.regs.pc))
      (s.fetchAfter [b] (.unassignedXY y (s.byteAt s.regs.pc))) = .next t) :
    ∃ t, exec (.unassignedXY x b) s = .next t := by
  rw [exec_unassignedXY_dispatches hp.reexecute]
  by_cases h : ∃ y c, s.decodeAfter [b] = .unassignedXY y c
  · obtain ⟨y, c, h⟩ := h
    obtain ⟨hb, rfl⟩ := State.decodeAfter_one_unassigned h
    rw [h]
    exact hnext y hb
  · exact exec_answers_of_ne (hp.fetchAfter _ _) (decodeHead_not_router _) fun y c hy => h ⟨y, c, hy⟩

/-- A byte that is no lead-in ends the chain at once. -/
theorem exec_unassignedXY_answers_of_not_chains (x : Index) {b : Byte} (hb : ¬ chains b) :
    ∃ t, exec (.unassignedXY x b) s = .next t :=
  exec_unassignedXY_answers_of_next hp x fun _ h => absurd h hb

end

/-- A chain that the byte `k` after PC ends answers a next state. -/
theorem exec_unassignedXY_answers (k : Nat) : ∀ (s : State) (x : Index) (b : Byte), Chaining s.params →
    ¬ chains (s.byteAt (s.regs.pc + BitVec.ofNat 16 k)) → ∃ t, exec (.unassignedXY x b) s = .next t := by
  induction k with
  | zero =>
    intro s x b hp hend
    have hend : ¬ chains (s.byteAt s.regs.pc) := BitVec.add_zero s.regs.pc ▸ hend
    exact exec_unassignedXY_answers_of_next hp x fun y _ =>
      exec_unassignedXY_answers_of_not_chains (hp.fetchAfter _ _) y hend
  | succ k ih =>
    intro s x b hp hend
    refine exec_unassignedXY_answers_of_next hp x fun y _ => ih _ y _ (hp.fetchAfter _ _) ?_
    have hk : BitVec.ofNat 16 (k + 1) = BitVec.ofNat 16 k + 1 := BitVec.ofNat_add k 1
    rw [State.fetchAfter_byteAt, State.fetchAfter_one_pc, add_assoc, add_comm 1, ← hk]
    exact hend

/-- Settles O48: the router's fuel is enough for the equation, a byte of memory that is no lead-in ends the chain, and a
memory of lead-ins never does. -/
theorem reexecuteDispatchesTheByte : Obligations.ReexecuteDispatchesTheByte := by
  intro s x b hre
  refine ⟨exec_unassignedXY_dispatches hre x b, fun hadm hstrict ⟨a, hdd, hfd⟩ => ?_,
    exec_unassignedXY_nop hre x, fun hall hb => ?_⟩
  · obtain ⟨k, -, hend⟩ := s.chain_ends ⟨a, not_or.mpr ⟨hdd, hfd⟩⟩
    exact exec_unassignedXY_answers k s x b ⟨hadm, hstrict, hre⟩ hend
  · rw [exec_unassignedXY_reexecute hre]
    exact route_endless _ s b hre hb hall

end Sys2Proof.Machine
end

section
/-!
Loads and stores of A through an address (41_load8.md R210 to R213).
-/

namespace Sys2Proof.Machine

/-- A byte read into A (R210, R212). -/
theorem State.loadAAt_leaves (s : State) (a : Word) :
    Leaves (.next (s.loadAAt a)) s (Sets8 { s.regs with memptr := a + 1 } · .a (s.byteAt a)) [] (s.rd a) :=
  leaves_next.mpr ⟨(s.setMemptr (a + 1)).setReg8_sets .a (s.byteAt a),
    (s.busRead_frame a).trans ((State.setReg8_frame _ .a _).trans (State.setMemptr_frame _ _))⟩

/-- A stored, and kept in the high half of MEMPTR (R188, R211, R213). -/
theorem State.storeAAt_leaves {s : State} (h : s.Inv) (a : Word) :
    Leaves (.next (s.storeAAt a)) s (· = { s.regs with memptr := s.regs.view .a ++ (a + 1).extractLsb' 0 8 })
      [(a, s.regs.view .a)] (wr a (s.regs.view .a)) :=
  leaves_next.mpr ⟨rfl, (State.busWrite_frame h a _).trans (State.setMemptr_frame _ _)⟩

/-- Settles O14: each row loads or stores A at BC, at DE or at nn. -/
theorem loadAndStoreAccumulator : Obligations.LoadAndStoreAccumulator := by
  refine fun s h => ⟨?_, ?_⟩
  · rintro i a (hmem | rfl)
    · obtain hbc | hde := List.mem_pair.mp hmem
      · cases hbc
        exact s.loadAAt_leaves s.regs.bc
      · cases hde
        exact s.loadAAt_leaves s.regs.de
    · exact s.loadAAt_leaves a
  · rintro i a (hmem | rfl)
    · obtain hbc | hde := List.mem_pair.mp hmem
      · cases hbc
        exact State.storeAAt_leaves h s.regs.bc
      · cases hde
        exact State.storeAAt_leaves h s.regs.de
    · exact State.storeAAt_leaves h a

end Sys2Proof.Machine
end

section
/-!
The 8-bit arithmetic and logic (40_alu_flags.md R175 to R182, 44_arith8.md R290 to R307): one function of the model
for each operation, equal to its closed form, and one lemma for each operand form.
-/

namespace Sys2Proof.Machine

/-- What latching the effective address adds to an effect: MEMPTR alone (R88). -/
theorem Leaves.of_latchEa {s : State} {x : Index} {d : Byte} {o : Result} {P : RegFile → Prop}
    {st : List (Word × Byte)} {ev : List Event} (h : Leaves o (s.latchEa x d) P st ev) : Leaves o s P st ev := by
  obtain ⟨t, ho, hregs, hframe⟩ := h
  have htrans : Frame s t (st ++ []) ([] ++ ev) := (s.setMemptr_frame _).trans hframe
  exact ⟨t, ho, hregs, List.append_nil st ▸ htrans⟩

/-! ## The accumulator operations (operand forms: R298) -/

/-- The effect of each accumulator operation (R290 to R297). -/
def AluOp.effect : AluOp → State → Byte → State
  | .add => State.aluAdd
  | .adc => State.aluAdc
  | .sub => State.aluSub
  | .sbc => State.aluSbc
  | .and => State.aluAnd
  | .xor => State.aluXor
  | .or => State.aluOr
  | .cp => State.aluCp

/-- An accumulator operation writes A and F by its closed form; CP writes A back (R176 to R180). -/
theorem AluOp.effect_eq (op : AluOp) (s : State) (v : Byte) :
    op.effect s v = s.setAF (op.spec (s.regs.view .a) v (s.regs.f.getLsbD 0)) := by
  cases op with
  | add => exact congrArg s.setAF (add8_eq _ _ _)
  | adc => exact congrArg s.setAF (add8_eq _ _ _)
  | sub => exact congrArg s.setAF (sub8_eq _ _ _)
  | sbc => exact congrArg s.setAF (sub8_eq _ _ _)
  | and => exact congrArg s.setAF (and8_eq _ _)
  | xor => exact congrArg s.setAF (xor8_eq _ _)
  | or => exact congrArg s.setAF (or8_eq _ _)
  | cp => exact congrArg s.setF (cp8_eq _ _)

/-- An accumulator operation leaves its result in A and F and changes nothing else. -/
theorem AluOp.effect_leaves (op : AluOp) (s : State) (v : Byte) :
    let p := op.spec (s.regs.view .a) v (s.regs.f.getLsbD 0)
    (op.effect s v).regs = s.regs.withAF p.1 p.2 ∧ Frame s (op.effect s v) [] [] := by
  rw [op.effect_eq]
  exact ⟨rfl, s.setAF_frame _⟩

section
variable (op : AluOp) (s : State)

theorem AluOp.exec_reg (r : Reg8) : exec (op.reg r) s = .next (op.effect s (s.reg8 r)) := by cases op <;> rfl

theorem AluOp.exec_imm (n : Byte) : exec (op.imm n) s = .next (op.effect s n) := by cases op <;> rfl

theorem AluOp.exec_indexHigh (x : Index) :
    exec (op.indexHigh x) s = s.ifAdmitted (.next (op.effect s (s.indexHigh x))) := by cases op <;> rfl

theorem AluOp.exec_indexLow (x : Index) :
    exec (op.indexLow x) s = s.ifAdmitted (.next (op.effect s (s.indexLow x))) := by cases op <;> rfl

theorem AluOp.exec_indHl :
    exec op.indHl s = .next (op.effect (s.busRead s.regs.hl) (s.byteAt s.regs.hl)) := by cases op <;> rfl

theorem AluOp.exec_indexed (x : Index) (d : Byte) : exec (op.indexed x d) s =
    .next ((op.effect ((s.latchEa x d).busRead (s.ea x d)) (s.byteAt (s.ea x d))).tick 5) := by cases op <;> rfl

end

/-- Settles O25: each form is the operation with its operand. -/
theorem aluRegisterAndImmediate : Obligations.AluRegisterAndImmediate := by
  refine fun s op => ⟨fun r => ?_, fun n => ?_, fun hadm x => ⟨?_, ?_⟩⟩
  · rw [op.exec_reg, s.reg8_eq]
    exact leaves_next.mpr (op.effect_leaves s _)
  · rw [op.exec_imm]
    exact leaves_next.mpr (op.effect_leaves s n)
  · rw [op.exec_indexHigh, s.indexHigh_eq]
    exact leaves_admitted hadm (op.effect_leaves s _)
  · rw [op.exec_indexLow, s.indexLow_eq]
    exact leaves_admitted hadm (op.effect_leaves s _)

/-- An accumulator operation with a byte read from memory (R298). -/
theorem AluOp.effect_busRead_leaves (op : AluOp) (s : State) (a : Word) :
    let p := op.spec (s.regs.view .a) (s.byteAt a) (s.regs.f.getLsbD 0)
    (op.effect (s.busRead a) (s.byteAt a)).regs = s.regs.withAF p.1 p.2
      ∧ Frame s (op.effect (s.busRead a) (s.byteAt a)) [] (s.rd a) := by
  obtain ⟨hregs, hframe⟩ := op.effect_leaves (s.busRead a) (s.byteAt a)
  exact ⟨hregs, (s.busRead_frame a).trans hframe⟩

/-- Settles O26: the byte is read at HL, or at the effective address once it is latched. -/
theorem aluMemory : Obligations.AluMemory := by
  refine fun s op => ⟨?_, fun x d => ?_⟩
  · rw [op.exec_indHl]
    exact leaves_next.mpr (op.effect_busRead_leaves s _)
  · obtain ⟨hregs, hframe⟩ := op.effect_busRead_leaves (s.latchEa x d) (s.ea x d)
    rw [op.exec_indexed]
    exact Leaves.of_latchEa
      (leaves_next.mpr ⟨(State.tick_regs _ 5).trans hregs, hframe.trans (State.tick_frame _ 5)⟩)

/-! ## INC and DEC -/

section
variable (op : IncOp) (s : State)

theorem IncOp.exec_reg (r : Reg8) :
    exec (op.reg r) s = .next ((s.setF (op.fn (s.reg8 r) s.regF).2).setReg8 r (op.fn (s.reg8 r) s.regF).1) := by
  cases op <;> rfl

theorem IncOp.exec_indexHigh (x : Index) : exec (op.indexHigh x) s = s.ifAdmitted
    (.next ((s.setF (op.fn (s.indexHigh x) s.regF).2).setIndexHigh x (op.fn (s.indexHigh x) s.regF).1)) := by
  cases op <;> rfl

theorem IncOp.exec_indexLow (x : Index) : exec (op.indexLow x) s = s.ifAdmitted
    (.next ((s.setF (op.fn (s.indexLow x) s.regF).2).setIndexLow x (op.fn (s.indexLow x) s.regF).1)) := by
  cases op <;> rfl

theorem IncOp.exec_indHl :
    exec op.indHl s = .next ((s.rmwFlags s.regs.hl (op.fn (s.byteAt s.regs.hl) s.regF)).tick 1) := by
  cases op <;> rfl

theorem IncOp.exec_indexed (x : Index) (d : Byte) : exec (op.indexed x d) s =
    .next (((s.latchEa x d).rmwFlags (s.ea x d) (op.fn (s.byteAt (s.ea x d)) s.regF)).tick 6) := by
  cases op <;> rfl

end

/-- Settles O27: F is written, then the register or the half of the index register. -/
theorem incDecRegister : Obligations.IncDecRegister := by
  refine fun s op => ⟨fun r => ?_, fun hadm x => ⟨?_, ?_⟩⟩
  · rw [op.exec_reg, op.fn_eq, s.reg8_eq]
    exact leaves_next.mpr ⟨s.setF_setReg8_sets r _ _, (s.setF_frame _).trans (State.setReg8_frame _ r _)⟩
  · rw [op.exec_indexHigh, op.fn_eq, s.indexHigh_eq]
    exact leaves_admitted hadm
      ⟨(s.setF _).setIndexHigh_sets x _, (s.setF_frame _).trans (State.setIndex_frame _ x _)⟩
  · rw [op.exec_indexLow, op.fn_eq, s.indexLow_eq]
    exact leaves_admitted hadm
      ⟨(s.setF _).setIndexLow_sets x _, (s.setF_frame _).trans (State.setIndex_frame _ x _)⟩

/-- A byte of memory read, F set and the byte written back, with extra units (R301, R304, R374). -/
theorem State.rmwFlags_leaves {s : State} (h : s.Inv) (a : Word) (p : Byte × Byte) (n : Nat) :
    Leaves (.next ((s.rmwFlags a p).tick (n + 1))) s (· = s.regs.withAF (s.regs.view .a) p.2) [(a, p.1)]
      (s.rd a ++ wr a p.1 ++ [.tick (n + 1)]) :=
  leaves_next.mpr ⟨rfl, (State.rmwFlags_frame h a p).trans (State.tick_frame _ (n + 1))⟩

/-- Settles O28: the byte is at HL, or at the effective address once it is latched. -/
theorem incDecMemory : Obligations.IncDecMemory := by
  refine fun s h op => ⟨?_, fun x d => ?_⟩
  · rw [op.exec_indHl, op.fn_eq]
    exact State.rmwFlags_leaves h _ _ 0
  · rw [op.exec_indexed, op.fn_eq]
    exact Leaves.of_latchEa (State.rmwFlags_leaves (s := s.latchEa x d) h _ _ 5)

end Sys2Proof.Machine
end

section
/-!
The 16-bit arithmetic (40_alu_flags.md R185, R186, 46_arith16.md R350 to R353).
-/

namespace Sys2Proof.Machine

section
variable (s : State) {p : Word × Byte} {w : Word} {f : Byte} (h : p = (w, f))
include h

/-- A sum or difference left in HL (R350 to R352). -/
theorem State.arithHl_leaves : Leaves (.next (s.arithHl p)) s
    (· = { s.regs.withAF (s.regs.view .a) f with hl := w, memptr := s.regs.hl + 1 }) [] [.tick 7] := by
  subst h
  exact leaves_next.mpr ⟨rfl, s.arithHl_frame _⟩

/-- A sum left in an index register (R353). -/
theorem State.arithIndex_leaves (x : Index) : Leaves (.next (s.arithIndex x p)) s
    (SetsIndex { s.regs.withAF (s.regs.view .a) f with memptr := s.regs.xy x + 1 } · x w) [] [.tick 7] := by
  subst h
  refine leaves_next.mpr ⟨?_, ((s.setMemptr_frame _).trans (State.setIndex_frame _ x _)).trans
    ((State.setF_frame _ _).trans (State.tick_frame _ 7))⟩
  have hsets := ((s.setMemptr (s.regs.xy x + 1)).setF f).setIndex_sets x w
  cases x <;> exact hsets

end

/-- Settles O32: each row leaves the closed form of its sum or difference. -/
theorem arithmetic16 : Obligations.Arithmetic16 := by
  refine fun s => ⟨fun p => ?_, fun p => ?_, fun p => ?_, fun x p => ?_⟩
  · rw [← s.pair_eq]
    exact s.arithHl_leaves (add16_eq _ _ _)
  · rw [← s.pair_eq]
    exact s.arithHl_leaves (adc16_eq _ _ _)
  · rw [← s.pair_eq]
    exact s.arithHl_leaves (sbc16_eq _ _ _)
  · rw [← s.indexPair_eq]
    exact s.arithIndex_leaves (s.index_eq x ▸ add16_eq _ _ _) x

end Sys2Proof.Machine
end

section
/-!
Rotates, shifts and bit tests (40_alu_flags.md R183, R184, 47_rotate_shift_bit.md R374 to R388, R395).
-/

namespace Sys2Proof.Machine

/-! ## Rotates and shifts

SLL is undocumented in every form, the other seven in the copy form alone (R137, R381). -/

section
variable {op : RotOp} {s : State} (h : op = .sll → s.params.undocAdmit = .admitted)
include h

theorem RotOp.exec_reg (r : Reg8) : exec (op.reg r) s = .next (s.rotReg op.fn r) := by
  cases op
  case sll => exact State.ifAdmitted_admitted (h rfl) _
  all_goals rfl

theorem RotOp.exec_indHl : exec op.indHl s = .next (s.rotIndHl op.fn) := by
  cases op
  case sll => exact State.ifAdmitted_admitted (h rfl) _
  all_goals rfl

theorem RotOp.exec_indexed (x : Index) (d : Byte) : exec (op.indexed x d) s = .next (s.rotIndexed op.fn x d) := by
  cases op
  case sll => exact State.ifAdmitted_admitted (h rfl) _
  all_goals rfl

end

theorem RotOp.exec_indexedCopy (op : RotOp) (s : State) (x : Index) (d : Byte) (r : Reg8) :
    exec (op.indexedCopy x d r) s = s.ifAdmitted (.next (s.rotIndexedCopy op.fn x d r)) := by cases op <;> rfl

/-- Settles O35: F is written, then the register. -/
theorem rotateRegister : Obligations.RotateRegister := by
  intro s op r h v c
  rw [RotOp.exec_reg h, State.rotReg, op.fn_eq, s.reg8_eq]
  exact leaves_next.mpr ⟨s.setF_setReg8_sets r _ _, (s.setF_frame _).trans (State.setReg8_frame _ r _)⟩

/-- A rotate of a byte of memory is a byte read and written back with its flags (R374). -/
theorem State.rotMem_eq (s : State) (op : RotOp) (a : Word) :
    let c := s.regs.f.getLsbD 0
    s.rotMem op.fn a = s.rmwFlags a (op.result (s.byteAt a) c, op.flags (s.byteAt a) c) :=
  congrArg (s.rmwFlags a) (op.fn_eq _ _)

/-- A rotate at the effective address (R374). -/
theorem State.rotIndexed_leaves {s : State} (h : s.Inv) (op : RotOp) (x : Index) (d : Byte) :
    let c := s.regs.f.getLsbD 0
    let a := s.ea x d
    let v := s.byteAt a
    Leaves (.next (s.rotIndexed op.fn x d)) s
      (· = { s.regs.withAF (s.regs.view .a) (op.flags v c) with memptr := a }) [(a, op.result v c)]
      (s.rd a ++ wr a (op.result v c) ++ [.tick 3]) := by
  intro c a v
  rw [State.rotIndexed, State.rotMem_eq]
  exact Leaves.of_latchEa (State.rmwFlags_leaves (s := s.latchEa x d) h a _ 2)

/-- Settles O36: a rotate of memory, its result also in a register in the copy forms. -/
theorem rotateMemory : Obligations.RotateMemory := by
  refine fun s h op => ⟨fun hsll => ⟨?_, fun x d => ?_⟩, fun hadm x d r => ?_⟩
  · rw [RotOp.exec_indHl hsll, State.rotIndHl, State.rotMem_eq]
    exact State.rmwFlags_leaves h _ _ 0
  · rw [RotOp.exec_indexed hsll]
    exact State.rotIndexed_leaves h op x d
  · obtain ⟨hregs, hframe⟩ := leaves_next.mp (State.rotIndexed_leaves h op x d)
    rw [op.exec_indexedCopy, State.rotIndexedCopy, op.fn_eq]
    refine leaves_admitted hadm ⟨?_, hframe.trans (State.setReg8_frame _ r _)⟩
    have hsets := (s.rotIndexed op.fn x d).setReg8_sets r
      (op.result (s.byteAt (s.ea x d)) (s.regs.f.getLsbD 0))
    rw [hregs] at hsets
    exact hsets.with_f (extract_lo _ _)

/-! ## Bit tests -/

/-- `BIT b,(HL)` with X5 and X3 from the byte `x` (R388). -/
theorem State.bitMem_leaves (s : State) (b : BitVec 3) (x : Byte) :
    Leaves (.next ((s.bitMem b x).tick 1)) s
      (· = s.regs.withAF (s.regs.view .a) (testFlags b (s.byteAt s.regs.hl) x s.regs.f)) []
      (s.rd s.regs.hl ++ [.tick 1]) := by
  rw [← bitFlags_eq]
  exact leaves_next.mpr ⟨rfl, ((s.busRead_frame _).trans (State.setF_frame _ _)).trans (State.tick_frame _ 1)⟩

/-- `BIT b,(XY+d)` (R395). -/
theorem State.bitIndexed_leaves (s : State) (b : BitVec 3) (x : Index) (d : Byte) :
    (s.bitIndexed b x d).regs = { s.regs.withAF (s.regs.view .a)
        (testFlags b (s.byteAt (s.ea x d)) ((s.ea x d).extractLsb' 8 8) s.regs.f) with memptr := s.ea x d }
      ∧ Frame s (s.bitIndexed b x d) [] (s.rd (s.ea x d) ++ [.tick 3]) := by
  rw [← bitFlags_eq]
  exact ⟨rfl, ((s.setMemptr_frame _).trans (State.busRead_frame _ _)).trans
    ((State.setF_frame _ _).trans (State.tick_frame _ 3))⟩

/-- With exact MEMPTR, X5 and X3 of `BIT b,(HL)` come from its high byte (R189). -/
theorem exec_bitIndHl_exact {s : State} (h : s.params.memptrExact = true) (b : BitVec 3) :
    exec (.bitIndHl b) s = .next ((s.bitMem b (hi s.regs.memptr)).tick 1) := if_pos h

/-- Without it they come from a draw, which is counted (R189). -/
theorem exec_bitIndHl_drawn {s : State} (h : s.params.memptrExact = false) (b : BitVec 3) :
    exec (.bitIndHl b) s =
      .next ((State.bitMem { s with draws := s.draws + 1 } b (Config.bitDraw s.draws)).tick 1) :=
  if_neg (Bool.not_eq_true _ ▸ h)

/-- Settles O37: each form writes F, the indexed ones MEMPTR too. -/
theorem bitTests : Obligations.BitTests := by
  refine fun s => ⟨fun b r => ?_, fun hexact b => ?_, fun hdrawn b => ?_, fun i b x d hi => ?_⟩
  · rw [← s.reg8_eq, ← bitFlags_eq]
    exact leaves_regs s _
  · rw [exec_bitIndHl_exact hexact]
    exact s.bitMem_leaves b _
  · rw [exec_bitIndHl_drawn hdrawn]
    exact State.bitMem_leaves { s with draws := s.draws + 1 } b _
  · obtain rfl | ⟨hadm, r, rfl⟩ := hi
    · exact leaves_next.mpr (s.bitIndexed_leaves b x d)
    · exact leaves_admitted hadm (s.bitIndexed_leaves b x d)

end Sys2Proof.Machine
end

section
/-!
16-bit register loads (42_load16_stack.md R230, R231, R236, R239).
-/

namespace Sys2Proof.Machine

/-- Settles O16: the immediate rows are a write of one pair or index register, the SP rows a write of SP and two
units. -/
theorem loadPairs : Obligations.LoadPairs := fun s =>
  ⟨fun p nn => leaves_next.mpr ⟨s.setPair_sets p nn, s.setPair_frame p nn⟩,
    fun x nn => leaves_next.mpr ⟨s.setIndex_sets x nn, s.setIndex_frame x nn⟩,
    leaves_regs_tick s rfl 1,
    fun x => s.index_eq x ▸ leaves_regs_tick s rfl 1⟩

end Sys2Proof.Machine
end

section
/-!
EX with the stack top and the block instructions (43_exchange_block.md R263 to R273, 49_io.md R436 to R443): each
form of a block instruction is one pass of its body, then the rewind where its repeat test says so (R264).
-/

namespace Sys2Proof.Machine

/-! ## The stack top exchanged -/

/-- The stack word swapped, then registers written and the three extra units (R263, R273). -/
theorem State.swapStack_tick_frame {s t : State} (h : s.Inv) (w : Word) (ht : Frame (s.swapStack w) t [] []) :
    Frame s (t.tick 3) [(s.regs.sp + 1, hi w), (s.regs.sp, lo w)]
      (s.rd s.regs.sp ++ s.rd (s.regs.sp + 1) ++ wr (s.regs.sp + 1) (hi w) ++ wr s.regs.sp (lo w) ++ [.tick 3]) :=
  (State.swapStack_frame h w).trans (ht.trans (State.tick_frame t 3))

/-- An index register and MEMPTR loaded with the word that was on the stack (R273). -/
theorem State.swapStack_setIndex_sets (s : State) (x : Index) (v w : Word) :
    SetsIndex { s.regs with memptr := w } (((s.swapStack v).setIndex x w).setMemptr w).regs x w := by
  have hsets := (s.setMemptr w).setIndex_sets x w
  cases x <;> exact hsets

/-- Settles O22: HL or an index register is swapped with the word on the stack, and the new word goes to MEMPTR. -/
theorem exchangeStackTop : Obligations.ExchangeStackTop := by
  refine fun s h => ⟨leaves_next.mpr ⟨rfl, ?_⟩, fun x => ?_⟩
  · exact State.swapStack_tick_frame h _ ((State.setPair_frame _ .hl _).trans (State.setMemptr_frame _ _))
  · rw [← s.index_eq x]
    exact leaves_next.mpr ⟨s.swapStack_setIndex_sets x _ _,
      State.swapStack_tick_frame h _ ((State.setIndex_frame _ x _).trans (State.setMemptr_frame _ _))⟩

/-! ## One pass, then the rewind where it repeats -/

/-- A pass `t`, and `u` after its rewind of five units: which of the two is left hangs on the repeat test (R264). -/
theorem leaves_pass {s t u : State} {g g' : RegFile} {st : List (Word × Byte)} {ev : List Event} (again : Bool)
    (hpass : t.regs = g ∧ Frame s t st ev) (hrewind : u.regs = g' ∧ Frame t u [] [.tick 5]) :
    Leaves (.next (if again then u else t)) s (· = if again then g' else g) st
      (ev ++ if again then [Event.tick 5] else []) := by
  obtain ⟨hregs, hframe⟩ := hpass
  obtain ⟨hregs', hframe'⟩ := hrewind
  cases again with
  | true => exact leaves_next.mpr ⟨hregs', hframe.trans hframe'⟩
  | false => exact leaves_next.mpr ⟨hregs, (List.append_nil ev).symm ▸ hframe⟩

section
variable {s t : State} {g : RegFile} {st : List (Word × Byte)} {ev : List Event} (again : Bool)
  (hregs : t.regs = g) (hframe : Frame s t st ev)
include hregs hframe

/-- A pass whose rewind sets PC and MEMPTR (R264). -/
theorem leaves_rewindLatch : Leaves (.next (if again then t.rewindLatch else t)) s
    (· = if again then { g with pc := g.pc - 2, memptr := g.pc - 1 } else g) st
    (ev ++ if again then [Event.tick 5] else []) :=
  leaves_pass again ⟨hregs, hframe⟩ ⟨hregs ▸ t.rewindLatch_regs, t.rewindLatch_frame⟩

/-- A pass whose rewind sets PC alone (R264). -/
theorem leaves_rewind : Leaves (.next (if again then t.rewind else t)) s
    (· = if again then { g with pc := g.pc - 2 } else g) st (ev ++ if again then [Event.tick 5] else []) :=
  leaves_pass again ⟨hregs, hframe⟩ ⟨hregs ▸ t.rewind_regs, t.rewind_frame⟩

end

/-- A member of a list of four is one of the four. -/
theorem mem_four {α : Type} {x a b c d : α} (h : x ∈ [a, b, c, d]) : x = a ∨ x = b ∨ x = c ∨ x = d := by
  simpa using h

/-! ## Block transfer and block compare -/

/-- LDI, LDD, LDIR and LDDR: the body in one direction, then the rewind where the form repeats and BC is left
(R265 to R268). -/
theorem exec_blockLoad {i : Instr} {step : Word} {loops : Bool} (s : State)
    (h : (i, step, loops) ∈
      [(Instr.ldi, (1 : Word), false), (.ldd, -1, false), (.ldir, 1, true), (.lddr, -1, true)]) :
    ∃ d : Direction, d.move = (· + step) ∧ exec i s =
      .next (if loops && s.regs.bc != 1 then (s.blockLoad d).rewindLatch else s.blockLoad d) := by
  obtain h | h | h | h := mem_four h <;> cases h
  · exact ⟨.up, Direction.move_up, rfl⟩
  · exact ⟨.down, Direction.move_down, rfl⟩
  · exact ⟨.up, Direction.move_up, congrArg Host.Outcome.next (s.blockLoadRepeat_eq .up)⟩
  · exact ⟨.down, Direction.move_down, congrArg Host.Outcome.next (s.blockLoadRepeat_eq .down)⟩

/-- Settles O23: each form is a pass of the transfer, and the repeating ones rewind with MEMPTR. -/
theorem blockTransfer : Obligations.BlockTransfer := by
  intro s hinv i step loops hi v left g
  obtain ⟨d, hmove, hexec⟩ := exec_blockLoad s hi
  have hregs : (s.blockLoad d).regs = g := by
    rw [s.blockLoad_regs, hmove]
  rw [hexec]
  exact leaves_rewindLatch _ hregs (State.blockLoad_frame hinv d)

/-- CPI, CPD, CPIR and CPDR: the body in one direction, then the rewind where the form repeats, BC is left and
there is no match (R269 to R272). -/
theorem exec_blockCompare {i : Instr} {step : Word} {loops : Bool} (s : State)
    (h : (i, step, loops) ∈
      [(Instr.cpi, (1 : Word), false), (.cpd, -1, false), (.cpir, 1, true), (.cpdr, -1, true)]) :
    ∃ d : Direction, d.move = (· + step) ∧ exec i s =
      .next (if loops && s.regs.bc != 1 && s.regs.view .a != s.byteAt s.regs.hl then (s.blockCompare d).rewindLatch
        else s.blockCompare d) := by
  obtain h | h | h | h := mem_four h <;> cases h
  · exact ⟨.up, Direction.move_up, rfl⟩
  · exact ⟨.down, Direction.move_down, rfl⟩
  · exact ⟨.up, Direction.move_up, congrArg Host.Outcome.next (s.blockCompareRepeat_eq .up)⟩
  · exact ⟨.down, Direction.move_down, congrArg Host.Outcome.next (s.blockCompareRepeat_eq .down)⟩

/-- Settles O24: each form is a pass of the compare, and the repeating ones rewind with MEMPTR. -/
theorem blockSearch : Obligations.BlockSearch := by
  intro s i step loops hi v left again g
  obtain ⟨d, hmove, hexec⟩ := exec_blockCompare s hi
  have hregs : (s.blockCompare d).regs = g := by
    rw [s.blockCompare_regs, hmove]
  rw [hexec]
  exact leaves_rewindLatch again hregs (s.blockCompare_frame d)

/-! ## Block input and output -/

/-- The repeat test of block input and output, for the count that the pass leaves in B (R438, R442). -/
theorem State.repeatIo_eq {t : State} {b : Byte} (h : t.regB = b) :
    t.repeatIo = if b != 0 then t.rewind else t := by
  rw [State.repeatIo, h]

/-- INI, IND, INIR and INDR: the body in one direction, then the rewind where the form repeats and B is left
(R436 to R439). -/
theorem exec_blockIn {i : Instr} {up loops : Bool} (s : State)
    (h : (i, up, loops) ∈
      [(Instr.ini, true, false), (.ind, false, false), (.inir, true, true), (.indr, false, true)]) :
    ∃ d : Direction, d.move = (fun a => if up then a + 1 else a - 1)
      ∧ d.moveByte = (fun c => if up then c + 1 else c - 1) ∧ exec i s =
      .next (if loops && s.regs.view .b - 1 != 0 then (s.blockIn d).rewind else s.blockIn d) := by
  obtain h | h | h | h := mem_four h <;> cases h
  · exact ⟨.up, rfl, rfl, rfl⟩
  · exact ⟨.down, rfl, rfl, rfl⟩
  · exact ⟨.up, rfl, rfl, congrArg Host.Outcome.next (State.repeatIo_eq (s.blockIn_regB .up))⟩
  · exact ⟨.down, rfl, rfl, congrArg Host.Outcome.next (State.repeatIo_eq (s.blockIn_regB .down))⟩

/-- Settles O45: each form is a pass of the input, and the repeating ones rewind. -/
theorem blockInput : Obligations.BlockInput := by
  intro s hinv i up loops hi move v c b g
  obtain ⟨d, hmove, hmoveByte, hexec⟩ := exec_blockIn s hi
  have hregs : (s.blockIn d).regs = g := by
    rw [s.blockIn_regs, hmove, hmoveByte]
  rw [hexec]
  exact leaves_rewind _ hregs (State.blockIn_frame hinv d)

/-- OUTI, OUTD, OTIR and OTDR: the body in one direction, then the rewind where the form repeats and B is left
(R440 to R443). -/
theorem exec_blockOut {i : Instr} {up loops : Bool} (s : State)
    (h : (i, up, loops) ∈
      [(Instr.outi, true, false), (.outd, false, false), (.otir, true, true), (.otdr, false, true)]) :
    ∃ d : Direction, d.move = (fun a => if up then a + 1 else a - 1) ∧ exec i s =
      .next (if loops && s.regs.view .b - 1 != 0 then (s.blockOut d).rewind else s.blockOut d) := by
  obtain h | h | h | h := mem_four h <;> cases h
  · exact ⟨.up, rfl, rfl⟩
  · exact ⟨.down, rfl, rfl⟩
  · exact ⟨.up, rfl, congrArg Host.Outcome.next (State.repeatIo_eq (s.blockOut_regB .up))⟩
  · exact ⟨.down, rfl, congrArg Host.Outcome.next (State.repeatIo_eq (s.blockOut_regB .down))⟩

/-- Settles O46: each form is a pass of the output, and the repeating ones rewind. -/
theorem blockOutput : Obligations.BlockOutput := by
  intro s i up loops hi move v b port hl g
  obtain ⟨d, hmove, hexec⟩ := exec_blockOut s hi
  have hregs : (s.blockOut d).regs = g := by
    rw [s.blockOut_regs, hmove]
  rw [hexec]
  exact leaves_rewind _ hregs (s.blockOut_frame d)

end Sys2Proof.Machine
end

section
/-!
Accumulator adjustment and CPU control (45_cpu_control.md R320 to R328, R332 to R334): each row is a write of A and F,
or of the control fields of the register file.
-/

namespace Sys2Proof.Machine

section
variable (s : State)

/-- A write of A and F leaves their closed form. -/
theorem State.setAF_leaves {p : Byte × Byte} {a f : Byte} (h : p = (a, f)) :
    (s.setAF p).regs = s.regs.withAF a f ∧ Frame s (s.setAF p) [] [] := by
  subst h
  exact ⟨rfl, s.setAF_frame _⟩

/-- A write of F leaves its closed form, and A as it was (R37). -/
theorem State.setF_leaves {f f' : Byte} (h : f = f') :
    (s.setF f).regs = s.regs.withAF (s.regs.view .a) f' ∧ Frame s (s.setF f) [] [] :=
  h ▸ ⟨rfl, s.setF_frame f⟩

/-- `IM n` and its mirrors leave the mode written, and nothing else (R332 to R334). -/
theorem State.setIm_leaves (m : IntMode) :
    (s.setIm m).regs = { s.regs with im := m } ∧ Frame s (s.setIm m) [] [] :=
  ⟨rfl, Frame.of_regs _ rfl⟩

end

/-- The result and the flags of NEG: those of 0 - A (R322). -/
theorem sub8_zero_eq (a : Byte) : sub8 0 a false = (-a, subFlags 0 a false (-a)) := by
  have hzero : (0 : Byte) - a = -a := BitVec.zero_sub a
  rw [sub8_eq, diffOf_false, hzero]

/-- NEG and its mirrors leave 0 - A and its flags (R322). -/
theorem State.negate_leaves (s : State) :
    s.negate.regs = s.regs.withAF (-s.regs.view .a) (subFlags 0 (s.regs.view .a) false (-s.regs.view .a))
      ∧ Frame s s.negate [] [] :=
  s.setAF_leaves (sub8_zero_eq _)

/-- The new A and the new F of CPL, X5 and X3 the complements of the old A's bits (R321). -/
theorem cpl8_eq_not_bits (a f : Byte) : cpl8 a f =
    (~~~a, flagByte (f.getLsbD 7) (f.getLsbD 6) (!a.getLsbD 5) true (!a.getLsbD 3) (f.getLsbD 2) true
      (f.getLsbD 0)) := by
  rw [cpl8_eq, BitVec.getLsbD_not, BitVec.getLsbD_not]
  rfl

/-- Settles O29: each row leaves the closed form of its adjustment in A and F, CCF and SCF in F alone. -/
theorem accumulatorAdjust : Obligations.AccumulatorAdjust := by
  refine fun s => ⟨?daa, ?cpl, ?neg, fun hadm y => ?negAlias, ?ccf, ?scf⟩
  case daa => exact leaves_next.mpr (s.setAF_leaves (daa8_eq _ _))
  case cpl => exact leaves_next.mpr (s.setAF_leaves (cpl8_eq_not_bits _ _))
  case neg => exact leaves_next.mpr s.negate_leaves
  case negAlias => exact leaves_admitted hadm s.negate_leaves
  case ccf => exact leaves_next.mpr (s.setF_leaves (ccfFlags_eq _ _))
  case scf => exact leaves_next.mpr (s.setF_leaves (scfFlags_eq _ _))

/-- Settles O30: each row writes control fields of the register file, and EI is framed from the state with `eiLast`
written (R328). -/
theorem cpuControl : Obligations.CpuControl := by
  refine fun s => ⟨?nop, ?halt, ?di, ?ei, ?im0, ?im1, ?im2, fun hadm => ⟨fun y => ?im0Alias, ?im1Alias, ?im2Alias⟩⟩
  case nop | halt | di => exact leaves_regs s _
  case ei => exact leaves_regs { s with eiLast := s.params.eiDelay } _
  case im0 | im1 | im2 => exact leaves_next.mpr (s.setIm_leaves _)
  case im0Alias | im1Alias | im2Alias => exact leaves_admitted hadm (s.setIm_leaves _)

end Sys2Proof.Machine
end

section
/-!
16-bit counts (46_arith16.md R355 to R358).
-/

namespace Sys2Proof.Machine

section
variable (s : State) (w : Word)

/-- A pair written, then the two units of a count (R355, R356). -/
theorem State.setPair_tick_leaves (p : Pair) :
    Leaves (.next ((s.setPair p w).tick 2)) s (Sets16 s.regs · p w) [] [.tick 2] :=
  leaves_next.mpr ⟨s.setPair_sets p w, (s.setPair_frame p w).trans (State.tick_frame _ 2)⟩

/-- An index register written, then the two units of a count (R357, R358). -/
theorem State.setIndex_tick_leaves (x : Index) :
    Leaves (.next ((s.setIndex x w).tick 2)) s (SetsIndex s.regs · x w) [] [.tick 2] :=
  leaves_next.mpr ⟨s.setIndex_sets x w, (s.setIndex_frame x w).trans (State.tick_frame _ 2)⟩

end

/-- Settles O33: each row writes its count to the pair or index register that it reads, and adds two units. -/
theorem incDecPairs : Obligations.IncDecPairs := by
  refine fun s => ⟨fun p => ?pair, fun x => ?index⟩
  case pair =>
    rw [← s.pair_eq]
    exact ⟨s.setPair_tick_leaves _ p, s.setPair_tick_leaves _ p⟩
  case index =>
    rw [← s.index_eq]
    exact ⟨s.setIndex_tick_leaves _ x, s.setIndex_tick_leaves _ x⟩

end Sys2Proof.Machine
end

section
/-!
The accumulator rotates, RES and SET, RLD and RRD (47_rotate_shift_bit.md R370 to R373, R389 to R397).
-/

namespace Sys2Proof.Machine

/-! ## Accumulator rotates -/

/-- RLCA, RRCA, RLA and RRA: A is rotated and the bit shifted out goes to the flags (R370 to R373). -/
theorem exec_rotateA {i : Instr} {op : RotOp} (s : State)
    (h : (i, op) ∈ [(Instr.rlca, RotOp.rlc), (.rrca, .rrc), (.rla, .rl), (.rra, .rr)]) :
    exec i s = .next (s.rotateA (op.fn s.regA s.carry).1 (op.out s.regA)) := by
  obtain h | h | h | h := mem_four h <;> cases h <;> rfl

/-- Settles O34: each form writes A and F, by the closed forms of its rotate and of the flags that keep S, Z and PV. -/
theorem accumulatorRotates : Obligations.AccumulatorRotates := by
  intro s i op hi a r
  rw [exec_rotateA s hi, op.fn_eq]
  exact leaves_next.mpr (s.setAF_leaves (congrArg (r, ·) (accRotateFlags_eq _ _ _)))

/-! ## RES and SET -/

/-- A byte of memory read and written back, with extra units (R390, R392). -/
theorem State.rmw_leaves {s : State} (h : s.Inv) (a : Word) (v : Byte) (n : Nat) :
    Leaves (.next ((s.rmw a v).tick (n + 1))) s (· = s.regs) [(a, v)] (s.rd a ++ wr a v ++ [.tick (n + 1)]) :=
  leaves_next.mpr ⟨rfl, (State.rmw_frame h a v).trans (State.tick_frame _ (n + 1))⟩

/-- The byte at the effective address read and written back, MEMPTR latched (R396, R397). -/
theorem State.rmwIndexed_leaves {s : State} (h : s.Inv) (x : Index) (d v : Byte) :
    Leaves (.next (s.rmwIndexed x d v)) s (· = { s.regs with memptr := s.ea x d }) [(s.ea x d, v)]
      (s.rd (s.ea x d) ++ wr (s.ea x d) v ++ [.tick 3]) :=
  Leaves.of_latchEa (State.rmw_leaves (s := s.latchEa x d) h _ v 2)

/-- The byte written back at the effective address, copied to a register (R396, R397). -/
theorem State.rmwIndexed_setReg8_leaves {s : State} (h : s.Inv) (x : Index) (d v : Byte) (r : Reg8) :
    Sets8 { s.regs with memptr := s.ea x d } ((s.rmwIndexed x d v).setReg8 r v).regs r v
      ∧ Frame s ((s.rmwIndexed x d v).setReg8 r v) [(s.ea x d, v)]
          (s.rd (s.ea x d) ++ wr (s.ea x d) v ++ [.tick 3]) := by
  obtain ⟨hregs, hframe⟩ := leaves_next.mp (State.rmwIndexed_leaves h x d v)
  exact ⟨hregs ▸ State.setReg8_sets _ r v, hframe.trans (State.setReg8_frame _ r v)⟩

/-- The function of RES or SET on a byte (R389, R391). -/
def writeBit (on : Bool) (b : BitVec 3) (v : Byte) : Byte := if on then raiseBit b v else clearBit b v

theorem writeBit_eq (on : Bool) (b : BitVec 3) : writeBit on b = if on then bitOn b else bitOff b := by
  funext v
  cases on with
  | false => exact clearBit_eq b v
  | true => exact raiseBit_eq b v

section
variable (on : Bool) (b : BitVec 3) (s : State)

theorem exec_writeBit_reg (r : Reg8) : exec (if on then .setR b r else .resR b r) s =
    .next (s.setReg8 r (writeBit on b (s.reg8 r))) := by cases on <;> rfl

theorem exec_writeBit_indHl : exec (if on then .setIndHl b else .resIndHl b) s =
    .next ((s.rmw s.regs.hl (writeBit on b (s.byteAt s.regs.hl))).tick 1) := by cases on <;> rfl

theorem exec_writeBit_indexed (x : Index) (d : Byte) : exec (if on then .setIndXY b x d else .resIndXY b x d) s =
    .next (s.rmwIndexed x d (writeBit on b (s.byteAt (s.ea x d)))) := by cases on <;> rfl

theorem exec_writeBit_indexedCopy (x : Index) (d : Byte) (r : Reg8) :
    exec (if on then .setIndXYR b x d r else .resIndXYR b x d r) s =
      s.ifAdmitted (.next ((s.rmwIndexed x d (writeBit on b (s.byteAt (s.ea x d)))).setReg8 r
        (writeBit on b (s.byteAt (s.ea x d))))) := by cases on <;> rfl

end

/-- Settles O38: each form writes the byte with its bit changed back to where it was read, the copy form to a register
too. -/
theorem bitResetAndSet : Obligations.BitResetAndSet := by
  intro s h on b m
  have hm : writeBit on b = m := writeBit_eq on b
  refine ⟨fun r => ?reg, ?indHl, fun x d => ?indexed, fun hadm x d r => ?indexedCopy⟩
  case reg =>
    rw [exec_writeBit_reg, hm, s.reg8_eq]
    exact leaves_next.mpr ⟨s.setReg8_sets r _, s.setReg8_frame r _⟩
  case indHl =>
    rw [exec_writeBit_indHl, hm]
    exact State.rmw_leaves h _ _ 0
  case indexed =>
    rw [exec_writeBit_indexed, hm]
    exact State.rmwIndexed_leaves h x d _
  case indexedCopy =>
    rw [exec_writeBit_indexedCopy, hm]
    exact leaves_admitted hadm (State.rmwIndexed_setReg8_leaves h x d _ r)

/-! ## RLD and RRD -/

section
variable (v : Byte)

theorem shiftLeft_four_eq : v <<< 4 = BitVec.ofNat 8 (v.toNat % 16 * 16) := by revert v; decide +kernel
theorem shiftRight_four_eq : v >>> 4 = BitVec.ofNat 8 (v.toNat / 16) := by revert v; decide +kernel
theorem and_lowNibble_eq : v &&& 0x0F = BitVec.ofNat 8 (v.toNat % 16) := by revert v; decide +kernel
theorem and_highNibble_eq : v &&& 0xF0 = BitVec.ofNat 8 (v.toNat / 16 * 16) := by revert v; decide +kernel

end

/-- A high nibble and a low nibble put together: their bits do not meet. -/
theorem ofNat_or_nibble (h : Nat) {l : Nat} (hl : l < 16) :
    BitVec.ofNat 8 (h * 16) ||| BitVec.ofNat 8 l = BitVec.ofNat 8 (h * 16 + l) := by
  have hsum : 2 ^ 4 * h + l = 2 ^ 4 * h ||| l := Nat.two_pow_add_eq_or_of_lt hl h
  rw [← BitVec.ofNat_or, Nat.mul_comm h 16]
  exact congrArg (BitVec.ofNat 8) hsum.symm

/-- The byte that RLD and RRD leave at HL, and the new A with its flags (R393, R394). -/
theorem State.nibbles_leaves {s : State} (h : s.Inv) (m a : Byte) :
    Leaves (.next (s.nibbles m a)) s
      (· = { s.regs.withAF a (readFlags a s.regs.f) with memptr := s.regs.hl + 1 }) [(s.regs.hl, m)]
      (s.rd s.regs.hl ++ wr s.regs.hl m ++ [.tick 4]) := by
  rw [← inputFlags_eq]
  exact leaves_next.mpr ⟨rfl, (State.rmw_frame h s.regs.hl m).trans
    ((State.setAF_frame _ _).trans ((State.setMemptr_frame _ _).trans (State.tick_frame _ 4)))⟩

/-- The nibbles of RLD as remainders and quotients (R393). -/
theorem exec_rld (s : State) :
    let a := (s.regs.view .a).toNat
    let v := (s.byteAt s.regs.hl).toNat
    exec .rld s =
      .next (s.nibbles (BitVec.ofNat 8 (v % 16 * 16 + a % 16)) (BitVec.ofNat 8 (a / 16 * 16 + v / 16))) := by
  intro a v
  have hv : v / 16 < 16 := Nat.div_lt_of_lt_mul (s.byteAt s.regs.hl).isLt
  rw [← ofNat_or_nibble _ (Nat.mod_lt a (by decide)), ← ofNat_or_nibble _ hv, ← shiftLeft_four_eq,
    ← and_lowNibble_eq, ← and_highNibble_eq, ← shiftRight_four_eq]
  rfl

/-- The nibbles of RRD as remainders and quotients (R394). -/
theorem exec_rrd (s : State) :
    let a := (s.regs.view .a).toNat
    let v := (s.byteAt s.regs.hl).toNat
    exec .rrd s =
      .next (s.nibbles (BitVec.ofNat 8 (a % 16 * 16 + v / 16)) (BitVec.ofNat 8 (a / 16 * 16 + v % 16))) := by
  intro a v
  have hv : v / 16 < 16 := Nat.div_lt_of_lt_mul (s.byteAt s.regs.hl).isLt
  rw [← ofNat_or_nibble _ hv, ← ofNat_or_nibble _ (Nat.mod_lt v (by decide)), ← shiftLeft_four_eq,
    ← shiftRight_four_eq, ← and_highNibble_eq, ← and_lowNibble_eq]
  rfl

/-- Settles O39: the two rows differ in where the nibbles go. -/
theorem nibbleRotates : Obligations.NibbleRotates := by
  intro s h a v leaves
  refine ⟨?rld, ?rrd⟩
  case rld =>
    show Leaves (exec .rld s) s _ _ _
    rw [exec_rld]
    exact State.nibbles_leaves h _ _
  case rrd =>
    show Leaves (exec .rrd s) s _ _ _
    rw [exec_rrd]
    exact State.nibbles_leaves h _ _

end Sys2Proof.Machine
end

section
/-!
RETN as the first instruction after a non-maskable delivery (48_jump_call_return.md R414, 60_exceptions.md R463 to
R477): the word that the delivery pushed is the word that RETN pops.
-/

namespace Sys2Proof.Machine

/-- The word on the stack once a delivery has saved PC, where neither slot is in `ROM_SET` (R101, R467). -/
theorem State.saved_stackTop {s : State} (h : s.Inv) (k : Interrupt) (h1 : s.inRom (s.regs.sp - 1) = false)
    (h2 : s.inRom (s.regs.sp - 2) = false) : (s.saved k).stackTop = s.returnAddress := by
  have hsp : (s.accepted k).regs.sp = s.regs.sp := by rw [State.accepted_regs]
  have hpc : (s.accepted k).regs.pc = s.returnAddress := by rw [State.accepted_regs]; rfl
  have hrom := (s.accepted_frame k).inRom
  rw [← hpc]
  refine State.push16_stackTop (State.accepted_inv h k) _ ?_ ?_
  · rw [hsp, hrom, h1]
  · rw [hsp, hrom, h2]

/-- Entering the handler of a non-maskable request touches neither SP nor memory, so the saved word stays on the
stack (R467, R468). -/
theorem State.requestNonMaskable_stackTop (s : State) :
    s.requestNonMaskable.stackTop = (s.saved .nonMaskable).stackTop := rfl

/-- The registers after a non-maskable delivery: IFF2 is kept (R466). -/
theorem State.requestNonMaskable_regs (s : State) : s.requestNonMaskable.regs =
    { s.regs with
      pc := 0x0066, memptr := 0x0066, halted := false, r := s.regs.r + 1, iff1 := false, sp := s.regs.sp - 2 } :=
  s.deliver_fixed_regs .nonMaskable (.inl rfl)

/-- Settles O54: RETN pops the address that the delivery saved, SP comes back mod 65536, and IFF1 takes the IFF2 that
the delivery kept. -/
theorem retnUndoesNonMaskableDelivery : Obligations.RetnUndoesNonMaskableDelivery := by
  intro s h h1 h2
  have htop : s.requestNonMaskable.stackTop = s.returnAddress :=
    s.requestNonMaskable_stackTop.trans (State.saved_stackTop h .nonMaskable h1 h2)
  have hregs := s.requestNonMaskable.returnFromInterrupt_regs
  have hsp : s.regs.sp - 2 + 2 = s.regs.sp := by bv_omega
  rw [htop, s.requestNonMaskable_regs, hsp] at hregs
  refine ⟨s.requestNonMaskable.returnFromInterrupt, rfl, ?_⟩
  rw [hregs]
  rfl

end Sys2Proof.Machine
end

section
/-!
The unassigned entries outside `Reexecute` (60_exceptions.md R470, R471), and the interrupt requests as calls of the
host (60_exceptions.md R461 to R469): a request is ignored or delivered, and a delivery reads a vector in mode 2 alone.
-/

namespace Sys2Proof.Machine

/-! ## Unassigned entries -/

/-- An event added to the trace is all that `log` changes. -/
theorem State.log_frame (s : State) (e : Event) : Frame s (s.log e) [] [e] :=
  Frame.of_parts (fun _ => rfl) rfl rfl rfl rfl rfl rfl

/-- The soft path of R470 in both settings of `STRICT_UNASSIGNED`. -/
theorem softNop_cases (tb : Table) (b : Byte) (s : State) :
    (s.params.strictUnassigned = false →
      Leaves (softNop tb b s) s (· = s.regs) [] [.unassigned tb b (s.regs.pc - 1)])
    ∧ (s.params.strictUnassigned = true → softNop tb b s = .fault (.unassigned tb b (s.regs.pc - 1))) := by
  refine ⟨fun h => ?_, fun h => if_pos h⟩
  rw [softNop_notStrict h]
  exact leaves_next.mpr ⟨rfl, s.log_frame _⟩

/-- Under `SoftNop` an unassigned DD or FD entry takes the soft path, with the table of its lead-in (R471). -/
theorem exec_unassignedXY_soft {s : State} (h : s.params.ddfdUnassigned = .softNop) (x : Index) (b : Byte) :
    exec (.unassignedXY x b) s = softNop x.table b s := by
  rw [← runWith_exec, runWith_unassignedXY, unassignedIndexed_soft h]

/-- Settles O47: the three forms take the soft path. -/
theorem unassignedOpcodes : Obligations.UnassignedOpcodes := by
  rintro s i t b (⟨rfl, rfl⟩ | ⟨hsoft, ⟨rfl, rfl⟩ | ⟨rfl, rfl⟩⟩)
  · exact softNop_cases .ed b s
  · exact exec_unassignedXY_soft hsoft .ix b ▸ softNop_cases .dd b s
  · exact exec_unassignedXY_soft hsoft .iy b ▸ softNop_cases .fd b s

/-! ## Maskable requests, ignored or delivered -/

/-- With IFF1 = 0, or in the EI_DELAY window, a maskable request does nothing (R461). -/
theorem State.requestMaskable_ignored {s : State}
    (h : s.regs.iff1 = false ∨ (s.params.eiDelay = true ∧ s.eiLast = true)) : s.requestMaskable = s := by
  unfold State.requestMaskable
  rw [if_neg]
  obtain hiff | ⟨hdelay, hlast⟩ := h
  · simp [hiff]
  · simp [hdelay, hlast]

/-- With IFF1 = 1 and no EI delay a maskable request is delivered (R461). -/
theorem State.requestMaskable_delivered {s : State} (hiff : s.regs.iff1 = true)
    (h : s.params.eiDelay = false ∨ s.eiLast = false) : s.requestMaskable = s.deliver .maskable := by
  unfold State.requestMaskable
  rw [if_pos]
  obtain hdelay | hlast := h
  · simp [hiff, hdelay]
  · simp [hiff, hlast]

/-- Settles O51: the call is taken off the schedule and the request is ignored. -/
theorem maskableRequestIgnored : Obligations.MaskableRequestIgnored := by
  intro s rest hsched h
  rw [step_of_schedule hsched]
  exact congrArg Host.Outcome.next (State.requestMaskable_ignored h)

/-! ## Deliveries -/

/-- Settles O52: the request is delivered from the state less the call, and no vector is read. -/
theorem nonMaskableDelivery : Obligations.NonMaskableDelivery := by
  intro s rest hinv hsched ret sp
  rw [step_of_schedule hsched]
  exact leaves_next.mpr ⟨State.requestNonMaskable_regs { s with schedule := rest },
    State.deliver_fixed_frame (s := { s with schedule := rest }) hinv .nonMaskable (.inl rfl)⟩

/-- Settles O53: the request is delivered from the state less the call, through the vector in mode 2 and to 0x0038 in
the other modes. -/
theorem maskableDelivery : Obligations.MaskableDelivery := by
  intro s rest hinv hsched hiff hei ret sp stores p low high vectored target
  rw [step_of_schedule hsched, hostCall, State.requestMaskable_delivered (s := { s with schedule := rest }) hiff hei]
  by_cases hmode : s.regs.im = .im2
  · have hvec : vectored = true := beq_iff_eq.mpr hmode
    have htarget : target = high ++ low := if_pos hvec
    rw [hvec, htarget]
    exact leaves_next.mpr ⟨State.deliver_vectored_regs (s := { s with schedule := rest }) hinv hmode,
      State.deliver_vectored_frame (s := { s with schedule := rest }) hinv hmode⟩
  · have hvec : vectored = false := beq_eq_false_iff_ne.mpr hmode
    have htarget : target = 0x0038 := if_neg (ne_true_of_eq_false hvec)
    rw [hvec, htarget]
    exact leaves_next.mpr ⟨State.deliver_fixed_regs { s with schedule := rest } .maskable (.inr hmode),
      State.deliver_fixed_frame (s := { s with schedule := rest }) hinv .maskable (.inr hmode)⟩

end Sys2Proof.Machine
end
